-- ==== Sys2Proof/Word.lean ====
section
/-! DEFINITION. The two word types of the block (spec/00_scope.md rule R10). -/

namespace Sys2Proof

/-- `Byte`: `0 .. 255` (R10). -/
abbrev Byte := BitVec 8

/-- `U16`: `0 .. 65535`, unsigned (R10, D10). -/
abbrev U16 := BitVec 16

end Sys2Proof
end

