-- ==== Sys2Proof/Config.lean ====
section
/-! DEFINITION. What the wiring of one instance fixes (spec/00_scope.md rule R7) and the free values: results the
spec calls unspecified, which nothing in Lean can evaluate. -/

namespace Sys2Proof

/-- The static configuration of R7 and R35: the four marker bytes, the capacity of `BUF`, and the capacity of the
encoder's output buffer (`none` is "unbounded"). `MAX_ACL_LEN` is not here: `CONFIG` changes it (R212), so it is a
register of the state. The fields are any values; the constraints of R7 are checked where an operation needs them. -/
structure Config where
  markerCmd : Byte
  markerAcl : Byte
  markerSync : Byte
  markerEvt : Byte
  bufCap : Nat
  txCap : Option Nat
deriving DecidableEq, Repr

/-- `CFG_REF` without its `MAX_ACL_LEN` (R8). PRESUMED markers (general knowledge G1), DESIGN CHOICE capacities;
unsafe for a claim about this configuration alone (notes/assumptions 1 and 2). -/
def Config.ref : Config :=
  { markerCmd := 0x01, markerAcl := 0x02, markerSync := 0x03, markerEvt := 0x04, bufCap := 258, txCap := some 259 }

/-- The `MAX_ACL_LEN` of `CFG_REF` (R8). DESIGN CHOICE, unsafe as above (notes/assumptions 2). -/
def Config.refMaxAclLen : U16 := 27

/-- The free value of `BUF[i]` while nothing has written it: "an unspecified value" (R23, R39), "any value" (U1).
Safe: no proof can know it (notes/assumptions 6). -/
opaque Config.freeBufByte : Nat → Byte

/-- The free value of the `byte` result of a `SrcGet` that answers `NoData` or `Error`, "unspecified" (R120).
Safe: no proof can know it (notes/assumptions 11). -/
opaque Config.freeByte : Nat → Byte

/-- The free value of the `remaining` result where R120 leaves it unspecified, or where the count does not fit the
16 bits R120 gives it. Safe (notes/assumptions 11). -/
opaque Config.freeRemaining : Nat → U16

end Sys2Proof
end

