-- ==== Sys2Proof/Syntax.lean ====
section
/-! DEFINITION. The transactions of the block: one constructor of `Instr` for each row of spec/opcode_table.json
(spec/30_encoding.md rules R80, R81). -/

namespace Sys2Proof

/-- `PacketType` (spec/00_scope.md rule R10). -/
inductive PacketType where
  | command
  | aclData
  | event
  | synchronousData
deriving DecidableEq, Repr

/-- The two labels `Resync(cause)` is raised with (spec/60_exceptions.md rules R180, R186). -/
inductive ResyncCause where
  | oversizedLength
  | unsupportedType
deriving DecidableEq, Repr

/-- The rows of the operation and marker table. The first five are bytes of the input stream; the others have no bit
pattern (R80) and carry the operands their rules give them. -/
inductive Instr where
  /-- `HCI_CMD`: the byte `MARKER_CMD`. -/
  | hciCmd
  /-- `HCI_ACL`: the byte `MARKER_ACL`. -/
  | hciAcl
  /-- `HCI_SYNC`: the byte `MARKER_SYNC`. -/
  | hciSync
  /-- `HCI_EVT`: the byte `MARKER_EVT`. -/
  | hciEvt
  /-- `NOT_A_MARKER`: a byte that is none of the four markers. -/
  | notAMarker (b : Byte)
  /-- `STEP(b)`, R90. -/
  | stepByte (b : Byte)
  /-- `DROP(b)`, R91. -/
  | drop (b : Byte)
  /-- `MARK.CMD(b)`, R92. -/
  | markCmd (b : Byte)
  /-- `MARK.ACL(b)`, R93. -/
  | markAcl (b : Byte)
  /-- `MARK.EVT(b)`, R94. -/
  | markEvt (b : Byte)
  /-- `MARK.SYNC(b)`, R95. -/
  | markSync (b : Byte)
  /-- `HDR.ACC(b)`, R97. -/
  | hdrAcc (b : Byte)
  /-- `HDR.REJ.SYNC(b)`, R98. -/
  | hdrRejSync (b : Byte)
  /-- `HDR.END.CMD(b)`, R99. -/
  | hdrEndCmd (b : Byte)
  /-- `HDR.END.EVT(b)`, R100. -/
  | hdrEndEvt (b : Byte)
  /-- `HDR.END.ACL(b)`, R101. -/
  | hdrEndAcl (b : Byte)
  /-- `PAY.ACC(b)`, R105. -/
  | payAcc (b : Byte)
  /-- `PAY.END(b)`, R106. -/
  | payEnd (b : Byte)
  /-- `COMPLETE`, R102. -/
  | complete
  /-- `RESYNC`, R186. -/
  | resync (cause : ResyncCause)
  /-- `SRCGET`, R120. -/
  | srcGet
  /-- `DRAIN`, R122. -/
  | drain
  /-- `DISPATCH`, R126: its three arguments are read from the registers. -/
  | dispatch
  /-- `ENC.FRAME(t, bytes)`, R140. -/
  | encFrame (t : PacketType) (bytes : List Byte)
  /-- `ENC.CMD(opcode, plen, params)`, R144. -/
  | encCmd (opcode : U16) (plen : Byte) (params : List Byte)
  /-- `ENC.ACL(handle, pb, bc, dlen, data)`, R145; the ranges of the fields are their widths. -/
  | encAcl (handle : BitVec 12) (pb bc : BitVec 2) (dlen : U16) (data : List Byte)
  /-- `ENC.EVT(code, len, data)`, R146. -/
  | encEvt (code len : Byte) (data : List Byte)
  /-- `TXFRAME`, R147. -/
  | txFrame (bytes : List Byte)
  /-- `RESET`, R210. -/
  | reset
  /-- `CONFIG(v)`, R212: any integer may be asked for, in range or not. -/
  | config (v : Nat)
deriving DecidableEq, Repr

end Sys2Proof
end

