-- ==== Sys2Proof/Decode.lean ====
section
/-! DEFINITION. Markers, packet formats and field assembly (spec/30_encoding.md), the decoder from a byte of the input
stream to its table row, and after it the encoder back to bytes. -/

namespace Sys2Proof

/-- `le16(b0, b1) = b0 + 256 * b1` (R9, R43, R69). The order is the spec's decision D3, PRESUMED from the protocol;
unsafe if the hardware uses the other order (notes/assumptions 4). -/
def le16 (b0 b1 : Byte) : U16 := BitVec.ofNat 16 (b0.toNat + 256 * b1.toNat)

/-- `v[7:0]` (R9). -/
def lowByte (v : U16) : Byte := v.extractLsb' 0 8

/-- `v[15:8]` (R9). -/
def highByte (v : U16) : Byte := v.extractLsb' 8 8

/-- The four marker values are pairwise distinct (R7, R61). -/
def markersDistinct (c : Config) : Bool :=
  decide (c.markerCmd ≠ c.markerAcl) && decide (c.markerCmd ≠ c.markerSync) && decide (c.markerCmd ≠ c.markerEvt) &&
    decide (c.markerAcl ≠ c.markerSync) && decide (c.markerAcl ≠ c.markerEvt) && decide (c.markerSync ≠ c.markerEvt)

/-- `MARKER(t)` (R61). -/
def marker (c : Config) : PacketType → Byte
  | .command => c.markerCmd
  | .aclData => c.markerAcl
  | .synchronousData => c.markerSync
  | .event => c.markerEvt

/-- `TYPE(b)`, the partial inverse of `MARKER` (R61), tested in the order of R90. -/
def typeOf (c : Config) (b : Byte) : Option PacketType :=
  if b = c.markerCmd then some .command
  else if b = c.markerAcl then some .aclData
  else if b = c.markerEvt then some .event
  else if b = c.markerSync then some .synchronousData
  else none

/-- `H(t)` (R62); `H(SynchronousData)` is not defined (R66). -/
def headerSize : PacketType → Option Nat
  | .command => some 3
  | .aclData => some 4
  | .event => some 2
  | .synchronousData => none

/-- `PACK_CMD` (R72). -/
def packCmd (opcode : U16) (plen : Byte) : List Byte := [lowByte opcode, highByte opcode, plen]

/-- `UNPACK_CMD` of the three header bytes (R73). -/
def unpackCmd (b0 b1 b2 : Byte) : U16 × Byte := (le16 b0 b1, b2)

/-- The handle/flags word `w = handle + 4096*pb + 16384*bc` (R74). The bit positions are the spec's decision D4,
PRESUMED from the protocol; no effect on framing (notes/assumptions 5). -/
def aclWord (handle : BitVec 12) (pb bc : BitVec 2) : U16 :=
  BitVec.ofNat 16 (handle.toNat + 4096 * pb.toNat + 16384 * bc.toNat)

/-- `PACK_ACL` (R74). -/
def packAcl (handle : BitVec 12) (pb bc : BitVec 2) (dlen : U16) : List Byte :=
  [lowByte (aclWord handle pb bc), highByte (aclWord handle pb bc), lowByte dlen, highByte dlen]

/-- `UNPACK_ACL` of the four header bytes (R75): `w[11:0]`, `w[13:12]`, `w[15:14]`, `dlen`. -/
def unpackAcl (b0 b1 b2 b3 : Byte) : BitVec 12 × BitVec 2 × BitVec 2 × U16 :=
  ((le16 b0 b1).extractLsb' 0 12, (le16 b0 b1).extractLsb' 12 2, (le16 b0 b1).extractLsb' 14 2, le16 b2 b3)

/-- `PACK_EVT` (R76). -/
def packEvt (code len : Byte) : List Byte := [code, len]

/-- `UNPACK_EVT` of the two header bytes (R77). -/
def unpackEvt (b0 b1 : Byte) : Byte × Byte := (b0, b1)

/-- The payload length a complete header of type `t` declares: `plen`, `dlen` or `len` by R73, R75, R77; `none` for a
byte sequence that is not a header of that type. -/
def headerLength : PacketType → List Byte → Option Nat
  | .command, [b0, b1, b2] => some (unpackCmd b0 b1 b2).2.toNat
  | .aclData, [b0, b1, b2, b3] => some (unpackAcl b0 b1 b2 b3).2.2.2.toNat
  | .event, [b0, b1] => some (unpackEvt b0 b1).2.toNat
  | _, _ => none

/-- `frame(t, bytes) = [MARKER(t)] ++ bytes` (R150). -/
def frame (c : Config) (t : PacketType) (bytes : List Byte) : List Byte := marker c t :: bytes

/-- A frame of `n` bytes fits the output buffer: the negation of "`n + 1 > TX_CAP`" of R141, `n` counting the marker
here; an unbounded `TX_CAP` never refuses. -/
def fitsTx (c : Config) (n : Nat) : Bool :=
  match c.txCap with
  | none => true
  | some cap => decide (n ≤ cap)

/-- The byte sequences a `TxFrame` can carry: a marker first, within `TX_CAP` (R140, R141, R147). -/
def isFrame (c : Config) : List Byte → Bool
  | [] => false
  | b :: rest => (typeOf c b).isSome && fitsTx c (rest.length + 1)

/-- Why no instruction is read from the input stream. -/
inductive DecodeError where
  /-- There is no byte to read. Safe: nothing is decoded. -/
  | noByte
  /-- Two of the four markers are equal, so a byte does not select one row (R61, R7). Safe: nothing is decoded. -/
  | markersNotDistinct
deriving DecidableEq, Repr

/-- The first byte selects the row of the table whose marker it equals, every other value selects `NOT_A_MARKER`
(R80); one instruction is one byte of the stream, the rest is returned. -/
def decode (c : Config) : List Byte → Except DecodeError (Instr × List Byte)
  | [] => .error .noByte
  | b :: rest =>
    if markersDistinct c then
      match typeOf c b with
      | some .command => .ok (.hciCmd, rest)
      | some .aclData => .ok (.hciAcl, rest)
      | some .event => .ok (.hciEvt, rest)
      | some .synchronousData => .ok (.hciSync, rest)
      | none => .ok (.notAMarker b, rest)
    else .error .markersNotDistinct

/-- The bytes of an instruction in the input stream: the marker rows of R61 and R80. The operation rows have no bit
pattern ("selected by the decoder state and the class of the input byte, not by a bit pattern", R80): `none`. -/
def encode (c : Config) : Instr → Option (List Byte)
  | .hciCmd => some [marker c .command]
  | .hciAcl => some [marker c .aclData]
  | .hciSync => some [marker c .synchronousData]
  | .hciEvt => some [marker c .event]
  | .notAMarker b => some [b]
  | .stepByte _ => none
  | .drop _ => none
  | .markCmd _ => none
  | .markAcl _ => none
  | .markEvt _ => none
  | .markSync _ => none
  | .hdrAcc _ => none
  | .hdrRejSync _ => none
  | .hdrEndCmd _ => none
  | .hdrEndEvt _ => none
  | .hdrEndAcl _ => none
  | .payAcc _ => none
  | .payEnd _ => none
  | .complete => none
  | .resync _ => none
  | .srcGet => none
  | .drain => none
  | .dispatch => none
  | .encFrame _ _ => none
  | .encCmd _ _ _ => none
  | .encAcl _ _ _ _ _ => none
  | .encEvt _ _ _ => none
  | .txFrame _ => none
  | .reset => none
  | .config _ => none

/-- `n` bytes of `w`, the least significant first: the table numbers bit 0 as the least significant bit of the first
byte. -/
def bytesOfWord : Nat → Nat → List Byte
  | 0, _ => []
  | n + 1, w => BitVec.ofNat 8 w :: bytesOfWord n (w / 256)

/-- The bytes of a table row of `nbits` bits: every row of this table that has bits is one byte long. -/
def tableBytes (nbits w : Nat) : List Byte := bytesOfWord (max 1 ((nbits + 7) / 8)) w

/-- The instruction read from a table word under the default markers of R61 (notes/assumptions 1, 20). -/
def decodeTableWord (nbits w : Nat) : Option Instr :=
  match decode Config.ref (tableBytes nbits w) with
  | .ok (i, _) => some i
  | .error _ => none

end Sys2Proof
end

