-- ==== Sys2Proof/WellFormed.lean ====
section
/-! DEFINITION. Which instructions the block can be asked to perform under a configuration: the conditions on
operands alone that the rules state. Conditions on the decoder's state are the selection of
Machine/Operands.lean. -/

namespace Sys2Proof

/-- The operand conditions of the rules: the byte of a `MARK.*` is that marker (R92 to R95), the byte of `DROP` and of
`NOT_A_MARKER` is no marker (R80, R91), a `TxFrame` carries a frame (R147). Everywhere else "Operand: `b`, any
value". -/
def Instr.wellFormed (c : Config) : Instr → Bool
  | .hciCmd => true
  | .hciAcl => true
  | .hciSync => true
  | .hciEvt => true
  | .notAMarker b => (typeOf c b).isNone
  | .stepByte _ => true
  | .drop b => (typeOf c b).isNone
  | .markCmd b => decide (b = c.markerCmd)
  | .markAcl b => decide (b = c.markerAcl)
  | .markEvt b => decide (b = c.markerEvt)
  | .markSync b => decide (b = c.markerSync)
  | .hdrAcc _ => true
  | .hdrRejSync _ => true
  | .hdrEndCmd _ => true
  | .hdrEndEvt _ => true
  | .hdrEndAcl _ => true
  | .payAcc _ => true
  | .payEnd _ => true
  | .complete => true
  | .resync _ => true
  | .srcGet => true
  | .drain => true
  | .dispatch => true
  | .encFrame _ _ => true
  | .encCmd _ _ _ => true
  | .encAcl _ _ _ _ _ => true
  | .encEvt _ _ _ => true
  | .txFrame bytes => isFrame c bytes
  | .reset => true
  | .config _ => true

end Sys2Proof
end

