-- ==== Sys2Proof/Machine/State.lean ====
section
/-! DEFINITION. The state of one instance (spec/10_state.md), the environment's inputs it waits for, the observable
outputs, and why a step can stop. -/

namespace Sys2Proof.Machine

/-- `State` of R10 and R21: the three states of the decoder's state machine. -/
inductive FsmState where
  | awaitingMarker
  | accumulatingHeader
  | accumulatingPayload
deriving DecidableEq, Repr

/-- `Status` of R10, the status codes of `SrcGet` (R120). -/
inductive SrcStatus where
  | ok
  | noData
  | error
deriving DecidableEq, Repr

/-- The result of a `SrcGet` (R120). -/
structure SrcAnswer where
  status : SrcStatus
  byte : Byte
  remaining : U16
deriving DecidableEq, Repr

/-- What the byte source decides at one `SrcGet`: whether it reports `Error` "at the source's discretion" (R120), and
the bytes the environment appends to `RXQ` between this `SrcGet` and the next (R121). -/
structure SrcTurn where
  error : Bool
  arrive : List Byte
deriving DecidableEq, Repr

/-- What the dispatch sink does with one `Dispatch`: it returns some result, which is ignored (R127), or it never
returns (R128). -/
inductive SinkAnswer where
  | success
  | failure
  | never
deriving DecidableEq, Repr

/-- The arguments of a `Dispatch(packetType, bytes, length)` transaction (R126). -/
structure Packet where
  ptype : PacketType
  bytes : List Byte
  length : U16
deriving DecidableEq, Repr

/-- The asynchronous invocations of R192: `DRAIN` by the byte-delivery callback, `RESET` and `CONFIG` by the host,
encode requests by callers. -/
inductive Request where
  | drain
  | reset
  | config (v : Nat)
  | encFrame (t : PacketType) (bytes : List Byte)
  | encCmd (opcode : U16) (plen : Byte) (params : List Byte)
  | encAcl (handle : BitVec 12) (pb bc : BitVec 2) (dlen : U16) (data : List Byte)
  | encEvt (code len : Byte) (data : List Byte)
deriving DecidableEq, Repr

/-- One event of the environment: it appends bytes to `RXQ` (R121) or invokes an operation (R192). -/
inductive Stimulus where
  | deliver (bytes : List Byte)
  | call (r : Request)
deriving DecidableEq, Repr

/-- The packet buffer `BUF` (R23, R40): the bytes written so far, by index. Canonical form (`Memory.wf`): indices
strictly rising. A byte that nothing has written holds a free value, `Config.freeBufByte` of its index (R23, R39, U1);
safe (notes/assumptions 6). -/
abbrev Memory := List Host.Cell

/-- Everything the spec gives one instance, the environment's pending inputs and the observable outputs.
INVENTORY.md lists each field with its rule. -/
structure State where
  /-- `st` (R21). -/
  st : FsmState
  /-- `mk` (R22); the name `mk` is the constructor's in Lean. -/
  mkTag : Option PacketType
  /-- `cnt` (R24). -/
  cnt : U16
  /-- `explen` (R25). -/
  explen : Option U16
  /-- `BUF` (R23). -/
  buf : Memory
  /-- A `Dispatch` is outstanding (R37). -/
  busy : Bool
  /-- `MAX_ACL_LEN` (R30). -/
  maxAclLen : U16
  /-- The static configuration (R31, R32, R34, R35). -/
  cfg : Config
  /-- A sink is registered (R33). -/
  sink : Bool
  /-- `RXQ`, head first (R37, R40, R121). -/
  rxq : List Byte
  /-- The byte source's coming choices; an empty list is a healthy source (notes/assumptions 12). -/
  srcPlan : List SrcTurn
  /-- The result of the latest `SrcGet` (notes/assumptions 26). -/
  srcAns : SrcAnswer
  /-- The counter of the free values (notes/assumptions 11). -/
  freeIx : Nat
  /-- How many bytes have been consumed (R29, R229). -/
  consumed : Nat
  /-- The sink's coming answers; an empty list is a sink that returns (notes/assumptions 13). -/
  sinkPlan : List SinkAnswer
  /-- The dispatch stream, oldest first (R40). -/
  dispatched : List Packet
  /-- The transmit stream, oldest first (R40). -/
  transmitted : List (List Byte)
  /-- The environment's pending events, oldest first (notes/assumptions 14). -/
  agenda : List Stimulus
deriving DecidableEq, Repr

/-- Why a step stops the machine. None is reached from a state that satisfies the invariant R26. -/
inductive Fault where
  /-- An access to `BUF` at an index the spec does not give it (R40, R103: indices are `0 .. BUF_CAP-1`). Raised by
  the operations that store a byte and by `Dispatch`. Safe. -/
  | bufOutOfRange (index : Nat)
deriving DecidableEq, Repr

/-- Why a run has no meaning. -/
inductive Refusal where
  /-- An instruction without a meaning, raised by `exec` alone. Safe. -/
  | notModelled (mnemonic : String)
  /-- A configuration outside the constraints of R7 ("refused, it is not given a meaning", U9). Raised by every
  instruction, over the part of the configuration that exists when it may run (notes/assumptions 18). Safe. -/
  | invalidConfig
  /-- No sink is registered (R33, R215, U8: "refuse"). Raised by decoder operations. Safe. -/
  | noSink
  /-- Use of the decoder while a `Dispatch` is outstanding (R220, U3: "refuse"). Raised by decoder operations, `SRCGET`,
  `RESET` and `CONFIG`. Safe. -/
  | reentrant
  /-- An operation applied in a state, or to an operand, for which its rule does not select it (R81, R90). Raised by
  the operations other than `STEP`. Safe. -/
  | notSelected
  /-- `STEP` or `Dispatch` in a state that breaks the invariant R26 so that R90 selects nothing or the arguments do
  not exist (U25: "or may refuse"). Safe. -/
  | brokenInvariant
deriving DecidableEq, Repr

/-- The machine right after `RESET` (R39, R210), wired as the start-up order R215 asks, with nothing delivered, nothing
emitted and nothing pending. `st`, `mk`, `cnt`, `explen`, `busy` are the spec's; configuration and sink have no
power-on value in the spec, so they are the model's: PRESUMED markers, DESIGN CHOICE `CFG_REF` capacities and bound,
DESIGN CHOICE registered sink; unsafe (notes/assumptions 1, 2, 3, 25, 26). -/
def State.reset : State :=
  { st := .awaitingMarker, mkTag := none, cnt := 0, explen := none, buf := [], busy := false,
    maxAclLen := Config.refMaxAclLen, cfg := Config.ref, sink := true,
    rxq := [], srcPlan := [], srcAns := { status := .noData, byte := 0, remaining := 0 }, freeIx := 0, consumed := 0,
    sinkPlan := [], dispatched := [], transmitted := [], agenda := [] }

end Sys2Proof.Machine
end

