-- ==== Sys2Proof/Machine/Ops.lean ====
section
/-! DEFINITION. The named operations the meanings share: the packet buffer, the registers, the recovery action
`Resync` (the block's exception entry, spec/60_exceptions.md R186) with the acceptance of a marker (its return, R188)
beside it, the outputs, the byte source, and the checks made before an operation runs. -/

namespace Sys2Proof.Machine

/-- The outcome of an operation. -/
abbrev Result := Host.Outcome State Fault Refusal

/-- Sequential composition: `f` runs on the next state, a stop stays. -/
def chain (o : Result) (f : State → Result) : Result :=
  match o with
  | .next s => f s
  | .fault r => .fault r
  | .refused r => .refused r

/-! ## The packet buffer -/

/-- The byte that was last written at index `a`, if anything was. -/
def Memory.lookup : Memory → Nat → Option Byte
  | [], _ => none
  | c :: r, a => if a = c.1 then some c.2 else Memory.lookup r a

/-- `BUF[a] <- b`. -/
def Memory.write : Memory → Nat → Byte → Memory
  | [], a, b => [(a, b)]
  | c :: r, a, b =>
    if a < c.1 then (a, b) :: c :: r
    else if a = c.1 then (a, b) :: r
    else c :: Memory.write r a b

/-- `BUF[a]`: the byte written there, or an unspecified one (R23, R39, U1), a free value (notes/assumptions 6). -/
def Memory.byte (m : Memory) (a : Nat) : Byte := (m.lookup a).getD (Config.freeBufByte a)

/-- `MemRead(a, n)` (R11): `BUF[a], ..., BUF[a + n - 1]`. -/
def Memory.readFrom (m : Memory) : Nat → Nat → List Byte
  | _, 0 => []
  | a, n + 1 => m.byte a :: Memory.readFrom m (a + 1) n

/-- The canonical form: indices strictly rising, so equal buffers are equal lists. -/
def Memory.wf : Memory → Bool
  | [] => true
  | [_] => true
  | c :: d :: r => decide (c.1 < d.1) && Memory.wf (d :: r)

/-! ## The registers -/

/-- `cnt <- n`. -/
def State.setCnt (s : State) (n : U16) : State := { s with cnt := n }

/-- `BUF[a] <- b`, without the range check. -/
def State.putByte (s : State) (a : Nat) (b : Byte) : State := { s with buf := s.buf.write a b }

/-- `MAX_ACL_LEN <- v` (R212). -/
def State.setMaxAclLen (s : State) (v : U16) : State := { s with maxAclLen := v }

/-- The acceptance of a marker (R92, R93, R94): `mk <- t ; cnt <- 1 ; st <- AccumulatingHeader`; `explen` and `BUF` are
untouched. -/
def State.openPacket (s : State) (t : PacketType) : State :=
  { s with mkTag := some t, cnt := 1, st := .accumulatingHeader }

/-- The end of a header-completing step (R99, R100, R101): `explen <- n ; cnt <- h ; st <- AccumulatingPayload`. -/
def State.enterPayload (s : State) (n h : U16) : State :=
  { s with explen := some n, cnt := h, st := .accumulatingPayload }

/-- The empty in-flight state (R27): `mk <- NONE ; cnt <- 0 ; explen <- NONE ; st <- AwaitingMarker`; `BUF` is not
cleared. -/
def State.emptied (s : State) : State :=
  { s with mkTag := none, cnt := 0, explen := none, st := .awaitingMarker }

/-- `busy <- false` (R210). -/
def State.clearBusy (s : State) : State := { s with busy := false }

/-- `BUF[a] <- b` with the bound of R40 checked "explicitly" (R103). -/
def storeByte (s : State) (a : Nat) (b : Byte) : Result :=
  if a < s.cfg.bufCap then .next (s.putByte a b) else .fault (.bufOutOfRange a)

/-- `Resync(cause)` (R186): the in-flight packet is discarded; the cause "is not stored; nothing is emitted". -/
def resyncOp (_cause : ResyncCause) (s : State) : State := s.emptied

/-! ## The outputs -/

/-- The sink's answer to the next `Dispatch`; a sink with nothing planned returns (notes/assumptions 13). -/
def State.sinkAnswer (s : State) : SinkAnswer := s.sinkPlan.headD .success

/-- The sink will not return from the next `Dispatch` (R128). -/
def State.sinkBlocks (s : State) : Bool :=
  match s.sinkAnswer with
  | .success => false
  | .failure => false
  | .never => true

/-- A `Dispatch` is made: the packet joins the dispatch stream and the sink is asked. `busy` stays set when the sink
does not return (R37, R128). -/
def State.logDispatch (s : State) (p : Packet) : State :=
  { s with
    dispatched := s.dispatched ++ [p]
    sinkPlan := s.sinkPlan.tail
    busy := s.sinkBlocks }

/-- A `TxFrame` is made: the frame joins the transmit stream; no return value is interpreted (R147). -/
def State.logFrame (s : State) (f : List Byte) : State := { s with transmitted := s.transmitted ++ [f] }

/-- `Dispatch(mk, BUF[0 .. explen - 1], explen)` (R126). The packet type is never `SynchronousData` and never `NONE`;
the sink's result is ignored (R127). -/
def emitDispatch (s : State) : Result :=
  match s.mkTag, s.explen with
  | some t, some n =>
    if (headerSize t).isNone then .refused .brokenInvariant
    else if s.cfg.bufCap < n.toNat then .fault (.bufOutOfRange (n.toNat - 1))
    else .next (s.logDispatch { ptype := t, bytes := s.buf.readFrom 0 n.toNat, length := n })
  | _, _ => .refused .brokenInvariant

/-- `COMPLETE` (R102): emit, wait for the sink, then empty the state. A sink that never returns leaves the decoder
inside the emit (R128: "a model must not add a step that lets the decoder move on"). -/
def completeOp (s : State) : Result :=
  chain (emitDispatch s) fun s1 => .next (if s1.busy then s1 else s1.emptied)

/-! ## The byte source -/

/-- What the byte source decides at the next `SrcGet` (notes/assumptions 12). -/
def State.srcTurn (s : State) : SrcTurn := s.srcPlan.headD { error := false, arrive := [] }

/-- An answer without a byte, `NoData` or `Error` (R120): `byte` and `remaining` are unspecified, so free values
(notes/assumptions 11). What arrives joins `RXQ`. -/
def State.answerNone (s : State) (status : SrcStatus) (q : List Byte) : State :=
  { s with
    rxq := q
    srcPlan := s.srcPlan.tail
    srcAns := { status := status, byte := Config.freeByte s.freeIx, remaining := Config.freeRemaining s.freeIx }
    freeIx := s.freeIx + 1 }

/-- The `remaining` result for `n` bytes still buffered (R120, a `U16`); a count that 16 bits cannot hold is a free
value (notes/assumptions 11). -/
def remainingOf (ix n : Nat) : U16 :=
  if n < 65536 then BitVec.ofNat 16 n else Config.freeRemaining ix

/-- An answer `Ok` with the byte `h` (R120); `n` bytes are still buffered, `q` is `RXQ` after arrivals. -/
def State.answerByte (s : State) (h : Byte) (n : Nat) (q : List Byte) : State :=
  { s with
    rxq := q
    srcPlan := s.srcPlan.tail
    srcAns := { status := .ok, byte := h, remaining := remainingOf s.freeIx n }
    freeIx := s.freeIx + 1
    consumed := s.consumed + 1 }

/-- `SrcGet()` (R120): the head of `RXQ` with the number of bytes still buffered, or `NoData`, or `Error` with `RXQ`
unchanged; then the environment's arrivals join the tail (R121). -/
def srcGetOp (s : State) : State :=
  if s.srcTurn.error then s.answerNone .error (s.rxq ++ s.srcTurn.arrive)
  else
    match s.rxq with
    | [] => s.answerNone .noData s.srcTurn.arrive
    | h :: r => s.answerByte h r.length (r ++ s.srcTurn.arrive)

/-- The environment appends bytes at the tail of `RXQ` (R121). -/
def State.appendRx (s : State) (bytes : List Byte) : State := { s with rxq := s.rxq ++ bytes }

/-- The environment's event has been taken up. -/
def State.setAgenda (s : State) (a : List Stimulus) : State := { s with agenda := a }

/-! ## Checks -/

/-- The constraints of R7 on what the encoder uses, the markers and `TX_CAP` (R36: its result depends on nothing else;
R215: "the encoder needs only step 1's markers and its caller's output buffer of capacity `TX_CAP`"). -/
def encoderConfigOk (c : Config) : Bool :=
  markersDistinct c &&
    match c.txCap with
    | none => true
    | some cap => decide (1 ≤ cap)

/-- The constraints of R7 on the whole static configuration, step 1 of R215. -/
def staticConfigOk (c : Config) : Bool :=
  encoderConfigOk c && decide (258 ≤ c.bufCap) && decide (c.bufCap ≤ 65535)

/-- Every constraint of R7, `MAX_ACL_LEN` included (steps 1 and 2 of R215). -/
def State.configOk (s : State) : Bool :=
  staticConfigOk s.cfg && decide (4 + s.maxAclLen.toNat ≤ s.cfg.bufCap)

/-- Why an operation on the instance that needs no sink has no meaning in this state: the duties of R7 and R220. -/
def State.notIdle (s : State) : Option Refusal :=
  if !s.configOk then some .invalidConfig else if s.busy then some .reentrant else none

/-- Run `r` if the configuration is legal and no `Dispatch` is outstanding. -/
def whenIdle (s : State) (r : Result) : Result :=
  match s.notIdle with
  | some e => .refused e
  | none => r

/-- Why a decoder operation has no meaning in this state: the duties of R7, R33, R215 and R220. -/
def State.notReady (s : State) : Option Refusal :=
  if !s.configOk then some .invalidConfig
  else if !s.sink then some .noSink
  else if s.busy then some .reentrant
  else none

/-- Run `r` if the decoder is ready. -/
def whenReady (s : State) (r : Result) : Result :=
  match s.notReady with
  | some e => .refused e
  | none => r

end Sys2Proof.Machine
end

