-- ==== Sys2Proof/Machine/Control.lean ====
section
/-! DEFINITION. The host's operations on one decoder instance (spec/70_reset_and_hazards.md). -/

namespace Sys2Proof.Machine

/-- `RESET` (R210): the empty state; `BUF`, the configuration, the sink and `RXQ` are not touched and nothing is
emitted. It must not be applied while a `Dispatch` is outstanding (R220) and follows the configuration (R215, R7). -/
def execReset (s : State) : Result := whenIdle s (.next s.emptied.clearBusy)

/-- `CONFIG(v)` (R212): "a value outside the range is refused and changes nothing" (notes/assumptions 17). It may be
applied only between decoder steps (R220), on a legal static configuration (R7). The bound it replaces is not checked:
`CONFIG` is how the host supplies one (step 2 of R215; notes/assumptions 18). -/
def execConfig (v : Nat) (s : State) : Result :=
  if !staticConfigOk s.cfg then .refused .invalidConfig
  else if s.busy then .refused .reentrant
  else if 4 + v ≤ s.cfg.bufCap then .next (s.setMaxAclLen (BitVec.ofNat 16 v))
  else .next s

end Sys2Proof.Machine
end

