-- ==== Sys2Proof/Machine/Encoder.lean ====
section
/-! DEFINITION. The Frame Encoder (spec/42_encoder.md). It reads its operands and the static configuration and writes
no register (R36, R149). -/

namespace Sys2Proof.Machine

/-- `ENC.FRAME(t, bytes)` (R140). A request that needs more than `TX_CAP` is turned away: "nothing is written and no
`TxFrame` is emitted" (R141; notes/assumptions 17). Nothing else is validated (R142), the type included (R143;
notes/assumptions 24). -/
def encodeFrame (t : PacketType) (bytes : List Byte) (s : State) : Result :=
  if !encoderConfigOk s.cfg then .refused .invalidConfig
  else if fitsTx s.cfg (bytes.length + 1) then .next (s.logFrame (frame s.cfg t bytes))
  else .next s

/-- `ENC.FRAME(t, bytes)` (R140). -/
def execEncFrame (t : PacketType) (bytes : List Byte) (s : State) : Result := encodeFrame t bytes s

/-- `ENC.CMD(opcode, plen, params)` (R144). The length is written as given (R148). -/
def execEncCmd (opcode : U16) (plen : Byte) (params : List Byte) (s : State) : Result :=
  encodeFrame .command (packCmd opcode plen ++ params) s

/-- `ENC.ACL(handle, pb, bc, dlen, data)` (R145). The length is written as given and is not compared with
`MAX_ACL_LEN` (R145, R148). -/
def execEncAcl (handle : BitVec 12) (pb bc : BitVec 2) (dlen : U16) (data : List Byte) (s : State) : Result :=
  encodeFrame .aclData (packAcl handle pb bc dlen ++ data) s

/-- `ENC.EVT(code, len, data)` (R146). The length is written as given (R148). -/
def execEncEvt (code len : Byte) (data : List Byte) (s : State) : Result :=
  encodeFrame .event (packEvt code len ++ data) s

/-- `TXFRAME` (R147): one whole frame, marker first, is handed over. Only an encode request that is not refused emits
it, so a byte sequence that is no such frame is not one (notes/assumptions 28). -/
def execTxFrame (bytes : List Byte) (s : State) : Result :=
  if !encoderConfigOk s.cfg then .refused .invalidConfig
  else if isFrame s.cfg bytes then .next (s.logFrame bytes)
  else .refused .notSelected

end Sys2Proof.Machine
end

