-- ==== Sys2Proof/Machine/Operands.lean ====
section
/-! DEFINITION. What an operation reads besides its byte: the declared length `LEN(t)` in `BUF`
(spec/30_encoding.md R70), and the selection of the operation by state and byte (spec/40_decoder_step.md R90). -/

namespace Sys2Proof.Machine

/-- `LEN(Command) = zext_16(BUF[2])` (R69, R70). -/
def lenCommand (m : Memory) : U16 := (m.byte 2).setWidth 16

/-- `LEN(Event) = zext_16(BUF[1])` (R69, R70). -/
def lenEvent (m : Memory) : U16 := (m.byte 1).setWidth 16

/-- `LEN(AclData) = le16(BUF[2], BUF[3])` (R70). -/
def lenAcl (m : Memory) : U16 := le16 (m.byte 2) (m.byte 3)

/-- `LEN(t)` (R70); "`LEN(SynchronousData)` is undefined", and no operation reads it. -/
def lenField (m : Memory) : PacketType → Option U16
  | .command => some (lenCommand m)
  | .event => some (lenEvent m)
  | .aclData => some (lenAcl m)
  | .synchronousData => none

/-- The twelve operations `STEP` selects between (R90). -/
inductive StepOp where
  | drop
  | markCmd
  | markAcl
  | markEvt
  | markSync
  | hdrAcc
  | hdrRejSync
  | hdrEndCmd
  | hdrEndEvt
  | hdrEndAcl
  | payAcc
  | payEnd
deriving DecidableEq, Repr

/-- The operation that completes a header (R90); `SynchronousData` has none. -/
def headerEndOp : PacketType → Option StepOp
  | .command => some .hdrEndCmd
  | .event => some .hdrEndEvt
  | .aclData => some .hdrEndAcl
  | .synchronousData => none

/-- The selection in `AwaitingMarker` (R90): by the type the byte spells. -/
def selectMarker (c : Config) (b : Byte) : StepOp :=
  match typeOf c b with
  | some .command => .markCmd
  | some .aclData => .markAcl
  | some .event => .markEvt
  | some .synchronousData => .markSync
  | none => .drop

/-- The selection in `AccumulatingHeader` (R90, R98): a state with `cnt = 0` or `cnt > H(mk)` breaks the invariant R26
and selects nothing (U25). -/
def selectHeader (mk : Option PacketType) (cnt : Nat) : Option StepOp :=
  match mk with
  | none => some .hdrRejSync
  | some t =>
    match headerSize t with
    | none => some .hdrRejSync
    | some h => if cnt = 0 then none else if cnt < h then some .hdrAcc else if cnt = h then headerEndOp t else none

/-- The selection in `AccumulatingPayload` (R90): a state without `explen`, or with `cnt + 1 > explen`, breaks the
invariant R26 and selects nothing (U25). -/
def selectPayload (explen : Option U16) (cnt : Nat) : Option StepOp :=
  match explen with
  | none => none
  | some n => if cnt + 1 < n.toNat then some .payAcc else if cnt + 1 = n.toNat then some .payEnd else none

/-- `STEP(b)` "reads `st` and applies exactly one of the operations" (R90): which one. -/
def select (s : State) (b : Byte) : Option StepOp :=
  match s.st with
  | .awaitingMarker => some (selectMarker s.cfg b)
  | .accumulatingHeader => selectHeader s.mkTag s.cnt.toNat
  | .accumulatingPayload => selectPayload s.explen s.cnt.toNat

/-- `COMPLETE` is "entered with `st = AccumulatingPayload` and `cnt = explen`" (R102). -/
def completing (s : State) : Bool :=
  decide (s.st = .accumulatingPayload) && decide (s.explen = some s.cnt)

/-- Run a byte operation where R90 selects it. -/
def whenSelected (s : State) (b : Byte) (op : StepOp) (r : Result) : Result :=
  whenReady s (if select s b = some op then r else .refused .notSelected)

/-- Run a sub-operation of a completing step where the state is the one it is entered with (R102, R126). -/
def whenCompleting (s : State) (r : Result) : Result :=
  whenReady s (if completing s then r else .refused .notSelected)

end Sys2Proof.Machine
end

