-- ==== Sys2Proof/Machine/Flags.lean ====
section
/-! DEFINITION. The block "has no status flag, condition code, error counter or error register"
(spec/10_state.md R29), so no operation computes a flag. What stands here in a flag's place is the classification of
errors of spec/60_exceptions.md R180, "names in the spec only": no operation reads it and no state holds it. -/

namespace Sys2Proof.Machine

/-- The four labels of R180. -/
inductive ErrorCause where
  | unrecognisedMarker
  | oversizedLength
  | unsupportedType
  | sourceExhaustion
deriving DecidableEq, Repr

/-- The declared length of the `AclData` header that `b` completes exceeds the bound: "unsigned compare, strict"
(R101). -/
def oversized (s : State) (b : Byte) : Bool := decide (s.maxAclLen.toNat < (le16 (s.buf.byte 2) b).toNat)

/-- The error cause a byte step raises, if any (R180, R190: "at most one error cause applies to any byte"). -/
def stepCause (s : State) (b : Byte) : Option ErrorCause :=
  match select s b with
  | some .drop => some .unrecognisedMarker
  | some .markSync => some .unsupportedType
  | some .hdrRejSync => some .unsupportedType
  | some .hdrEndAcl => if oversized s b then some .oversizedLength else none
  | some .markCmd => none
  | some .markAcl => none
  | some .markEvt => none
  | some .hdrAcc => none
  | some .hdrEndCmd => none
  | some .hdrEndEvt => none
  | some .payAcc => none
  | some .payEnd => none
  | none => none

/-- The cause a `SrcGet` answer stands for (R180): no data is source exhaustion, "not an error". -/
def sourceCause (a : SrcAnswer) : Option ErrorCause :=
  match a.status with
  | .ok => none
  | .noData => some .sourceExhaustion
  | .error => none

end Sys2Proof.Machine
end

