-- ==== Sys2Proof/Machine/Header.lean ====
section
/-! DEFINITION. The operations in `AccumulatingHeader` (spec/40_decoder_step.md section 3) and the recovery action
`RESYNC` they raise. -/

namespace Sys2Proof.Machine

/-- `HDR.ACC(b)` (R97): `BUF[cnt - 1] <- b ; cnt <- cnt + 1`. -/
def opHdrAcc (b : Byte) (s : State) : Result :=
  chain (storeByte s (s.cnt.toNat - 1) b) fun s1 => .next (s1.setCnt (s1.cnt + 1))

/-- `HDR.REJ.SYNC(b)` (R98): `b` is consumed and not stored. -/
def opHdrRejSync (s : State) : Result := .next (resyncOp .unsupportedType s)

/-- The tail of a header-completing step once the length is accepted (R99, R100, R101): `explen <- H + len`, the
marker is no longer counted (D5; notes/assumptions 7), the payload begins, and a packet without payload completes in
this same step (D13). -/
def acceptHeader (h len : U16) (s : State) : Result :=
  if h = h + len then completeOp (s.enterPayload (h + len) h) else .next (s.enterPayload (h + len) h)

/-- `HDR.END.CMD(b)` (R99): no bound beyond the field's own (C3, D7; notes/assumptions 9). -/
def opHdrEndCmd (b : Byte) (s : State) : Result :=
  chain (storeByte s 2 b) fun s1 => acceptHeader 3 (lenCommand s1.buf) (s1.setCnt 4)

/-- `HDR.END.EVT(b)` (R100): no bound beyond the field's own (C3, D7; notes/assumptions 9). -/
def opHdrEndEvt (b : Byte) (s : State) : Result :=
  chain (storeByte s 1 b) fun s1 => acceptHeader 2 (lenEvent s1.buf) (s1.setCnt 3)

/-- `HDR.END.ACL(b)` (R101): the length is compared with `MAX_ACL_LEN`, unsigned and strict, before `explen` is
written; an oversized one raises `Resync(OversizedLength)`. -/
def opHdrEndAcl (b : Byte) (s : State) : Result :=
  chain (storeByte s 3 b) fun s1 =>
    if s1.maxAclLen.toNat < (lenAcl s1.buf).toNat then .next (resyncOp .oversizedLength (s1.setCnt 5))
    else acceptHeader 4 (lenAcl s1.buf) (s1.setCnt 5)

/-- `HDR.ACC(b)` (R97). -/
def execHdrAcc (b : Byte) (s : State) : Result := whenSelected s b .hdrAcc (opHdrAcc b s)

/-- `HDR.REJ.SYNC(b)` (R98). -/
def execHdrRejSync (b : Byte) (s : State) : Result := whenSelected s b .hdrRejSync (opHdrRejSync s)

/-- `HDR.END.CMD(b)` (R99). -/
def execHdrEndCmd (b : Byte) (s : State) : Result := whenSelected s b .hdrEndCmd (opHdrEndCmd b s)

/-- `HDR.END.EVT(b)` (R100). -/
def execHdrEndEvt (b : Byte) (s : State) : Result := whenSelected s b .hdrEndEvt (opHdrEndEvt b s)

/-- `HDR.END.ACL(b)` (R101). -/
def execHdrEndAcl (b : Byte) (s : State) : Result := whenSelected s b .hdrEndAcl (opHdrEndAcl b s)

/-- `RESYNC` (R186): it has no condition of its own; `HDR.END.ACL` and `HDR.REJ.SYNC` raise it. -/
def execResync (cause : ResyncCause) (s : State) : Result := whenReady s (.next (resyncOp cause s))

end Sys2Proof.Machine
end

