-- ==== Sys2Proof/Machine/Marker.lean ====
section
/-! DEFINITION. The operations in `AwaitingMarker` (spec/40_decoder_step.md section 2). -/

namespace Sys2Proof.Machine

/-- `DROP` (R91): no register and no byte of `BUF` changes. -/
def opDrop (s : State) : Result := .next s

/-- `MARK.CMD` (R92). -/
def opMarkCmd (s : State) : Result := .next (s.openPacket .command)

/-- `MARK.ACL` (R93). -/
def opMarkAcl (s : State) : Result := .next (s.openPacket .aclData)

/-- `MARK.EVT` (R94). -/
def opMarkEvt (s : State) : Result := .next (s.openPacket .event)

/-- `MARK.SYNC` (R95): dropped exactly as `DROP` drops a byte (C2, D6; notes/assumptions 8). -/
def opMarkSync (s : State) : Result := .next s

/-- `DROP(b)` (R91). -/
def execDrop (b : Byte) (s : State) : Result := whenSelected s b .drop (opDrop s)

/-- `MARK.CMD(b)` (R92). -/
def execMarkCmd (b : Byte) (s : State) : Result := whenSelected s b .markCmd (opMarkCmd s)

/-- `MARK.ACL(b)` (R93). -/
def execMarkAcl (b : Byte) (s : State) : Result := whenSelected s b .markAcl (opMarkAcl s)

/-- `MARK.EVT(b)` (R94). -/
def execMarkEvt (b : Byte) (s : State) : Result := whenSelected s b .markEvt (opMarkEvt s)

/-- `MARK.SYNC(b)` (R95). -/
def execMarkSync (b : Byte) (s : State) : Result := whenSelected s b .markSync (opMarkSync s)

end Sys2Proof.Machine
end

