-- ==== Sys2Proof/Machine/Payload.lean ====
section
/-! DEFINITION. The operations in `AccumulatingPayload` and the completion of a packet (spec/40_decoder_step.md
sections 4 and 5, spec/41_decoder_drain_dispatch.md section 3). -/

namespace Sys2Proof.Machine

/-- `PAY.ACC(b)` (R105): `BUF[cnt] <- b ; cnt <- cnt + 1`. -/
def opPayAcc (b : Byte) (s : State) : Result :=
  chain (storeByte s s.cnt.toNat b) fun s1 => .next (s1.setCnt (s1.cnt + 1))

/-- `PAY.END(b)` (R106): the last payload byte, then `COMPLETE`. -/
def opPayEnd (b : Byte) (s : State) : Result :=
  chain (storeByte s s.cnt.toNat b) fun s1 => completeOp (s1.setCnt (s1.cnt + 1))

/-- `PAY.ACC(b)` (R105). -/
def execPayAcc (b : Byte) (s : State) : Result := whenSelected s b .payAcc (opPayAcc b s)

/-- `PAY.END(b)` (R106). -/
def execPayEnd (b : Byte) (s : State) : Result := whenSelected s b .payEnd (opPayEnd b s)

/-- `COMPLETE` (R102), on the state it is entered with. -/
def execComplete (s : State) : Result := whenCompleting s (completeOp s)

/-- `DISPATCH` (R126): the transaction alone, on the state `COMPLETE` emits it from; emptying the state is
`COMPLETE`'s. -/
def execDispatch (s : State) : Result := whenCompleting s (emitDispatch s)

end Sys2Proof.Machine
end

