-- ==== Sys2Proof/Machine/Stream.lean ====
section
/-! DEFINITION. The byte step as a whole (spec/40_decoder_step.md R90), the rows of the marker table as bytes of the
stream (spec/30_encoding.md R80), the byte source and the drain loop (spec/41_decoder_drain_dispatch.md). -/

namespace Sys2Proof.Machine

/-- Apply the selected operation to `b` (R90). -/
def runOp (op : StepOp) (b : Byte) (s : State) : Result :=
  match op with
  | .drop => opDrop s
  | .markCmd => opMarkCmd s
  | .markAcl => opMarkAcl s
  | .markEvt => opMarkEvt s
  | .markSync => opMarkSync s
  | .hdrAcc => opHdrAcc b s
  | .hdrRejSync => opHdrRejSync s
  | .hdrEndCmd => opHdrEndCmd b s
  | .hdrEndEvt => opHdrEndEvt b s
  | .hdrEndAcl => opHdrEndAcl b s
  | .payAcc => opPayAcc b s
  | .payEnd => opPayEnd b s

/-- `STEP(b)` (R90): every byte handed to it is consumed. A state outside R26 for which R90 selects nothing is refused
(U25). -/
def consumeByte (b : Byte) (s : State) : Result :=
  whenReady s
    (match select s b with
    | some op => runOp op b s
    | none => .refused .brokenInvariant)

/-- `STEP(b)` (R90). -/
def execStepByte (b : Byte) (s : State) : Result := consumeByte b s

/-- `HCI_CMD`: the byte `MARKER_CMD` is consumed. In `AwaitingMarker` it opens a `Command` packet (R92); "a byte equal
to a marker value that arrives in `AccumulatingHeader` or `AccumulatingPayload` is data" (R79; notes/assumptions
19). -/
def execHciCmd (s : State) : Result := consumeByte (marker s.cfg .command) s

/-- `HCI_ACL`: the byte `MARKER_ACL` is consumed (R79, R93). -/
def execHciAcl (s : State) : Result := consumeByte (marker s.cfg .aclData) s

/-- `HCI_SYNC`: the byte `MARKER_SYNC` is consumed (R79, R95). -/
def execHciSync (s : State) : Result := consumeByte (marker s.cfg .synchronousData) s

/-- `HCI_EVT`: the byte `MARKER_EVT` is consumed (R79, R94). -/
def execHciEvt (s : State) : Result := consumeByte (marker s.cfg .event) s

/-- `NOT_A_MARKER`: a byte that is no marker is consumed (R79, R91). A marker is not this row (R80). -/
def execNotAMarker (b : Byte) (s : State) : Result :=
  if (typeOf s.cfg b).isNone then consumeByte b s else .refused .notSelected

/-- `decode(s, bytes)` of R131 on the machine's state: `STEP` applied to each byte in order; the packets it outputs are
those that join the dispatch stream. -/
def feed : List Byte → State → Result
  | [], s => .next s
  | b :: r, s => chain (consumeByte b s) (feed r)

/-- `SRCGET` (R120): the byte source answers; nothing is consumed while a `Dispatch` is outstanding (R128), and an
illegal configuration is refused (R7). -/
def execSrcGet (s : State) : Result := whenIdle s (.next (srcGetOp s))

/-- After a byte's `STEP` in the loop of R122: the decoder waits inside a `Dispatch` that does not return (R128), or the
loop ends because nothing is left buffered, or it goes on. -/
def afterStep (remaining : U16) (next : State → Result) (s : State) : Result :=
  if s.busy then .next s else if remaining = 0 then .next s else next s

/-- The loop of `DRAIN` (R122), `fuel` iterations at most. On `NoData` and `Error` it returns (R123, R124; D14,
notes/assumptions 10). -/
def drainLoop : Nat → State → Result
  | 0, s => .next s
  | fuel + 1, s =>
    if (srcGetOp s).srcAns.status = .ok then
      chain (consumeByte (srcGetOp s).srcAns.byte (srcGetOp s)) (afterStep (srcGetOp s).srcAns.remaining (drainLoop fuel))
    else .next (srcGetOp s)

/-- How many bytes `RXQ` will ever hold under the source's plan: each `Ok` takes one of them, so the loop of R122 ends
within one more iteration. -/
def State.supply (s : State) : Nat := s.rxq.length + (s.srcPlan.map fun t => t.arrive.length).sum

/-- `DRAIN` (R122). -/
def execDrain (s : State) : Result := whenReady s (drainLoop (s.supply + 1) s)

end Sys2Proof.Machine
end

