-- ==== Sys2Proof/Machine/Dispatch.lean ====
section
/-! DEFINITION. The meaning of every instruction, one arm a constructor (spec/30_encoding.md R81). -/

namespace Sys2Proof.Machine

def exec (i : Instr) (s : State) : Host.Outcome State Fault Refusal :=
  match i with
  | .hciCmd => Sys2Proof.Machine.execHciCmd s
  | .hciAcl => Sys2Proof.Machine.execHciAcl s
  | .hciSync => Sys2Proof.Machine.execHciSync s
  | .hciEvt => Sys2Proof.Machine.execHciEvt s
  | .notAMarker b => Sys2Proof.Machine.execNotAMarker b s
  | .stepByte b => Sys2Proof.Machine.execStepByte b s
  | .drop b => Sys2Proof.Machine.execDrop b s
  | .markCmd b => Sys2Proof.Machine.execMarkCmd b s
  | .markAcl b => Sys2Proof.Machine.execMarkAcl b s
  | .markEvt b => Sys2Proof.Machine.execMarkEvt b s
  | .markSync b => Sys2Proof.Machine.execMarkSync b s
  | .hdrAcc b => Sys2Proof.Machine.execHdrAcc b s
  | .hdrRejSync b => Sys2Proof.Machine.execHdrRejSync b s
  | .hdrEndCmd b => Sys2Proof.Machine.execHdrEndCmd b s
  | .hdrEndEvt b => Sys2Proof.Machine.execHdrEndEvt b s
  | .hdrEndAcl b => Sys2Proof.Machine.execHdrEndAcl b s
  | .payAcc b => Sys2Proof.Machine.execPayAcc b s
  | .payEnd b => Sys2Proof.Machine.execPayEnd b s
  | .complete => Sys2Proof.Machine.execComplete s
  | .resync cause => Sys2Proof.Machine.execResync cause s
  | .srcGet => Sys2Proof.Machine.execSrcGet s
  | .drain => Sys2Proof.Machine.execDrain s
  | .dispatch => Sys2Proof.Machine.execDispatch s
  | .encFrame t bytes => Sys2Proof.Machine.execEncFrame t bytes s
  | .encCmd opcode plen params => Sys2Proof.Machine.execEncCmd opcode plen params s
  | .encAcl handle pb bc dlen data => Sys2Proof.Machine.execEncAcl handle pb bc dlen data s
  | .encEvt code len data => Sys2Proof.Machine.execEncEvt code len data s
  | .txFrame bytes => Sys2Proof.Machine.execTxFrame bytes s
  | .reset => Sys2Proof.Machine.execReset s
  | .config v => Sys2Proof.Machine.execConfig v s

end Sys2Proof.Machine
end

