-- ==== Sys2Proof/Machine/Fetch.lean ====
section
/-! DEFINITION. How the machine takes up its next event: the environment's requests as instructions
(spec/60_exceptions.md R192) and the fetch of the next byte of the stream (spec/41_decoder_drain_dispatch.md R120). -/

namespace Sys2Proof.Machine

/-- The transaction an invocation stands for (R192). -/
def requestInstr : Request → Instr
  | .drain => .drain
  | .reset => .reset
  | .config v => .config v
  | .encFrame t bytes => .encFrame t bytes
  | .encCmd opcode plen params => .encCmd opcode plen params
  | .encAcl handle pb bc dlen data => .encAcl handle pb bc dlen data
  | .encEvt code len data => .encEvt code len data

/-- What the byte source hands over next. -/
inductive Fetched where
  /-- The instruction the byte selects (R80), the byte being consumed. -/
  | instr (i : Instr)
  /-- The source answered `NoData` or `Error`: nothing to decode (R123, R124). -/
  | nothing
  /-- The markers are not distinct, so the byte selects no row (R61, R7). -/
  | ambiguous
deriving DecidableEq, Repr

/-- The row of the marker table that the byte `SrcGet` has just returned selects (R80). -/
def fetched (s : State) : Fetched :=
  if s.srcAns.status = .ok then
    match decode s.cfg [s.srcAns.byte] with
    | .ok (i, _) => .instr i
    | .error .noByte => .nothing
    | .error .markersNotDistinct => .ambiguous
  else .nothing

/-- The state whose next step fetches `bytes`: they stand at the head of `RXQ`, the byte source is healthy for the next
`SrcGet`, no event of the environment comes first, no `Dispatch` is outstanding. -/
def State.withRxHead (s : State) (bytes : List Byte) : State :=
  { s with
    rxq := bytes ++ s.rxq
    srcPlan := { error := false, arrive := [] } :: s.srcPlan
    agenda := []
    busy := false }

end Sys2Proof.Machine
end

