-- ==== Sys2Proof/Machine/Run.lean ====
section
/-! DEFINITION. What one step of the machine runs: the environment's oldest pending event, or the next byte of the
stream. -/

namespace Sys2Proof.Machine

/-- Run the row of the marker table that the byte source has just handed over, if it handed one over. -/
def runFetched (s : State) : Result :=
  match fetched s with
  | .instr i => exec i s
  | .nothing => .next s
  | .ambiguous => .refused .invalidConfig

/-- One byte of the drain that the byte source owes a non-empty `RXQ` (R125): a `SrcGet`, then the instruction the byte
selects. With nothing to consume the block is at rest (R229), inside a `Dispatch` that has not returned it waits (R128):
the state stays. -/
def runStream (s : State) : Result :=
  if s.busy then .next s else if s.rxq = [] then .next s else chain (execSrcGet s) runFetched

/-- Take up one event of the environment: bytes join the tail of `RXQ` (R121), an invocation runs its operation
(R192). -/
def runEvent (e : Stimulus) (s : State) : Result :=
  match e with
  | .deliver bytes => .next (s.appendRx bytes)
  | .call r => exec (requestInstr r) s

end Sys2Proof.Machine
end

