-- ==== Sys2Proof/Machine/Step.lean ====
section
/-! DEFINITION. One step of the machine. -/

namespace Sys2Proof.Machine

/-- One step (R6, R12, R192): the oldest pending event of the environment if there is one; with none pending, the next
byte of the stream. DESIGN CHOICE on the order of the agents (notes/assumptions 14, 15). -/
def step (s : State) : Host.Outcome State Fault Refusal :=
  match s.agenda with
  | e :: rest => runEvent e (s.setAgenda rest)
  | [] => runStream s

/-- The state in which the very next step fetches the table word `w` of `nbits` bits: its bytes are delivered to the
head of `RXQ` (notes/assumptions 15). -/
def State.withFetchWord (s : State) (nbits w : Nat) : State := s.withRxHead (tableBytes nbits w)

end Sys2Proof.Machine
end

