-- ==== Sys2Proof/Safety.lean ====
section
/-! DEFINITION. The terms statements about the machine are written in: which states and packets the rules speak of, and
runs of several steps. -/

namespace Sys2Proof.Machine

/-- The decoder may run: the configuration meets R7, a sink is registered (R33, R215), no `Dispatch` is outstanding
(R220). -/
structure State.Ready (s : State) : Prop where
  config : s.configOk = true
  sink : s.sink = true
  idle : s.busy = false

/-- The empty in-flight state, `AM0` (R27, first row of R26). -/
structure State.Empty (s : State) : Prop where
  st : s.st = .awaitingMarker
  packet : s.mkTag = none
  cnt : s.cnt = 0
  explen : s.explen = none

/-- The first `n` bytes of `BUF` have been written. -/
def Memory.Written (m : Memory) (n : Nat) : Prop := ∀ a, a < n → (m.lookup a).isSome = true

/-- The second row of R26. -/
structure State.InHeader (s : State) (t : PacketType) (h : Nat) : Prop where
  packet : s.mkTag = some t
  size : headerSize t = some h
  low : 1 ≤ s.cnt.toNat
  high : s.cnt.toNat ≤ h
  explen : s.explen = none
  written : s.buf.Written (s.cnt.toNat - 1)
  idle : s.busy = false

/-- The third row of R26: `explen = H(mk) + LEN(mk)`, at most `BUF_CAP`, `H(mk) <= cnt < explen`; while a `Dispatch` is
outstanding, inside the completing step, `cnt` equals `explen`. -/
structure State.InPayload (s : State) (t : PacketType) (h : Nat) (n len : U16) : Prop where
  packet : s.mkTag = some t
  size : headerSize t = some h
  explen : s.explen = some n
  field : lenField s.buf t = some len
  total : n.toNat = h + len.toNat
  fits : n.toNat ≤ s.cfg.bufCap
  low : h ≤ s.cnt.toNat
  high : if s.busy = true then s.cnt = n else s.cnt.toNat < n.toNat
  written : s.buf.Written s.cnt.toNat

/-- Which row of R26 the state must satisfy. -/
def State.Row (s : State) : Prop :=
  match s.st with
  | .awaitingMarker => s.Empty ∧ s.busy = false
  | .accumulatingHeader => ∃ t h, s.InHeader t h
  | .accumulatingPayload => ∃ t h n len, s.InPayload t h n len

/-- The state invariant of R26, with the configuration constraints of R7 it rests on, the canonical form of `BUF`, and
every written index inside `BUF` (R40, R103). -/
structure State.Inv (s : State) : Prop where
  config : s.configOk = true
  wf : s.buf.wf = true
  bounded : ∀ c ∈ s.buf, c.1 < s.cfg.bufCap
  row : s.Row

/-- The sink returns from the next `Dispatch` (R127). -/
def State.SinkReturns (s : State) : Prop := s.sinkAnswer ≠ .never

/-- The sink returns from every `Dispatch` it is planned to answer. -/
def State.SinkAlwaysReturns (s : State) : Prop := ∀ a ∈ s.sinkPlan, a ≠ .never

/-- A valid packet `(t, h, p)` of spec/43_properties.md: a header of type `t` that declares the length of `p`, within
`MAX_ACL_LEN` for `AclData`. -/
structure ValidPacket (maxAcl : U16) (t : PacketType) (h p : List Byte) : Prop where
  declared : headerLength t h = some p.length
  bounded : t = .aclData → p.length ≤ maxAcl.toNat

/-- A `Dispatch` whose length is the number of its bytes and whose header declares the rest (R126). -/
structure Packet.Wellformed (p : Packet) (h : Nat) : Prop where
  size : headerSize p.ptype = some h
  long : h ≤ p.bytes.length
  declared : headerLength p.ptype (p.bytes.take h) = some (p.bytes.length - h)
  length : p.length.toNat = p.bytes.length

/-- The packets of `out`, each with its marker in front, are contiguous pieces of `x`, in order and without overlap
(R166). -/
def Segments (c : Config) : List Byte → List Packet → Prop
  | _, [] => True
  | x, p :: out => ∃ g r, x = g ++ (marker c p.ptype :: p.bytes) ++ r ∧ Segments c r out

/-- The encoder's operations (R6, R147). -/
def isEncoder : Instr → Bool
  | .encFrame _ _ => true
  | .encCmd _ _ _ => true
  | .encAcl _ _ _ _ _ => true
  | .encEvt _ _ _ => true
  | .txFrame _ => true
  | .hciCmd => false
  | .hciAcl => false
  | .hciSync => false
  | .hciEvt => false
  | .notAMarker _ => false
  | .stepByte _ => false
  | .drop _ => false
  | .markCmd _ => false
  | .markAcl _ => false
  | .markEvt _ => false
  | .markSync _ => false
  | .hdrAcc _ => false
  | .hdrRejSync _ => false
  | .hdrEndCmd _ => false
  | .hdrEndEvt _ => false
  | .hdrEndAcl _ => false
  | .payAcc _ => false
  | .payEnd _ => false
  | .complete => false
  | .resync _ => false
  | .srcGet => false
  | .drain => false
  | .dispatch => false
  | .reset => false
  | .config _ => false

/-- The row of the table that is the byte operation `op` on `b` (R81). -/
def byteInstr (op : StepOp) (b : Byte) : Instr :=
  match op with
  | .drop => .drop b
  | .markCmd => .markCmd b
  | .markAcl => .markAcl b
  | .markEvt => .markEvt b
  | .markSync => .markSync b
  | .hdrAcc => .hdrAcc b
  | .hdrRejSync => .hdrRejSync b
  | .hdrEndCmd => .hdrEndCmd b
  | .hdrEndEvt => .hdrEndEvt b
  | .hdrEndAcl => .hdrEndAcl b
  | .payAcc => .payAcc b
  | .payEnd => .payEnd b

/-- `k` steps of the machine. -/
def steps : Nat → State → Result
  | 0, s => .next s
  | k + 1, s => chain (step s) (steps k)

/-- The decoder is stuck inside an emit (R128): however many steps follow and whatever is delivered meanwhile, the bytes
pile up in `RXQ` and nothing else changes. -/
def State.StaysBlocked (s : State) : Prop :=
  ∀ (ds : List (List Byte)) (k : Nat), ds.length ≤ k →
    steps k { s with agenda := ds.map .deliver } = .next { s with agenda := [], rxq := s.rxq ++ ds.flatten }

/-- `s` right after a completing step whose sink did not return (R37, R102, R128): the header and payload bytes are
counted by `n`, the packet has been handed over, the registers are not yet emptied; `m` is `BUF`. -/
def State.insideEmit (s : State) (m : Memory) (n : U16) (p : Packet) : State :=
  { s with
    cnt := n, explen := some n, st := .accumulatingPayload, buf := m, dispatched := s.dispatched ++ [p],
    sinkPlan := s.sinkPlan.tail, busy := true }

end Sys2Proof.Machine
end

