-- ==== Sys2Proof/Certificates/Slice0/Obligations.lean ====
section
/-! DEFINITION. The statements for the provers. Each docstring names the rules of spec/ it rests on; where the behaviour
is the spec's own decision (D<n> of spec/92_eei_decisions.md) or the model's choice, it names the row of
notes/assumptions/. The states are all states that meet the hypotheses, reachable or not; the configuration is any. -/

open Sys2Proof Sys2Proof.Machine

/-! ## Encodings and formats -/

/-- R61, R80 (D2): decoding and encoding the marker rows agree both ways: the byte of a well-formed row decodes to that
row, whatever follows it in the stream, and every byte selects a well-formed row whose encoding it is. -/
def Obligations.DecodeAndEncodeAgree : Prop :=
  ∀ c : Config, markersDistinct c = true →
    (∀ (i : Instr) (bytes rest : List Byte), i.wellFormed c = true → encode c i = some bytes →
      decode c (bytes ++ rest) = .ok (i, rest)) ∧
    ∀ (b : Byte) (rest : List Byte),
      ∃ i, decode c (b :: rest) = .ok (i, rest) ∧ i.wellFormed c = true ∧ encode c i = some [b]

/-- The default markers of R61 (PRESUMED, notes/assumptions 1), written out, and two bytes that are no marker. -/
def Obligations.WrittenOutBytesDecode : Prop :=
  decode Config.ref [0b00000001] = .ok (.hciCmd, []) ∧ decode Config.ref [0b00000010] = .ok (.hciAcl, []) ∧
  decode Config.ref [0b00000011] = .ok (.hciSync, []) ∧ decode Config.ref [0b00000100] = .ok (.hciEvt, []) ∧
  decode Config.ref [0b00000000] = .ok (.notAMarker 0, []) ∧ decode Config.ref [0b11111111] = .ok (.notAMarker 255, [])

/-- R72 to R78 under the byte order and bit positions of D3 and D4 (notes/assumptions 4, 5): unpacking a packed header
gives the fields back, and packing an unpacked header gives the bytes back, for the three types. -/
def Obligations.HeaderPackingInverse : Prop :=
  (∀ opcode plen, ∃ b0 b1, packCmd opcode plen = [b0, b1, plen] ∧ unpackCmd b0 b1 plen = (opcode, plen)) ∧
  (∀ b0 b1 b2, packCmd (unpackCmd b0 b1 b2).1 (unpackCmd b0 b1 b2).2 = [b0, b1, b2]) ∧
  (∀ handle pb bc dlen, ∃ b0 b1 b2 b3, packAcl handle pb bc dlen = [b0, b1, b2, b3] ∧
    unpackAcl b0 b1 b2 b3 = (handle, pb, bc, dlen)) ∧
  (∀ b0 b1 b2 b3, ∃ handle pb bc dlen, unpackAcl b0 b1 b2 b3 = (handle, pb, bc, dlen) ∧
    packAcl handle pb bc dlen = [b0, b1, b2, b3]) ∧
  (∀ code len, packEvt code len = [code, len] ∧ unpackEvt code len = (code, len))

/-! ## Reset, configuration, duties of the callers -/

/-- R39 (D11, D16): the state after reset; every byte of `BUF` holds an unspecified value, a free one (notes/assumptions
6). The empty streams are the model's (notes/assumptions 25). -/
def Obligations.ResetStateIsInitial : Prop :=
  State.reset.st = .awaitingMarker ∧ State.reset.mkTag = none ∧ State.reset.cnt = 0 ∧ State.reset.explen = none ∧
  State.reset.busy = false ∧ (∀ a, State.reset.buf.byte a = Config.freeBufByte a) ∧ State.reset.dispatched = [] ∧
  State.reset.transmitted = []

/-- R26 holds of the state after reset, with the configuration `CFG_REF` that the model gives it (notes/assumptions 1,
2). -/
def Obligations.ResetStateInvariant : Prop := State.reset.Inv

/-- R210 (D16): `RESET` empties the in-flight state and changes nothing else, no byte of `BUF` and no byte of `RXQ`
included. -/
def Obligations.ResetEmptiesDecoder : Prop :=
  ∀ s : State, s.configOk = true → s.busy = false →
    exec .reset s = .next { s with st := .awaitingMarker, mkTag := none, cnt := 0, explen := none }

/-- The breaches of duty that the spec refuses (R7, U3, U8, U9, R215; notes/assumptions 18): while a `Dispatch` is
outstanding everything but the encoder's operations; with an illegal configuration or no sink every operation of the
decoder; with an illegal configuration also `SRCGET`, `RESET` and the machine's step on a byte; with an illegal static
configuration `CONFIG`, and the encoder's operations with illegal markers or `TX_CAP`. -/
def Obligations.BreachesOfDutyRefused : Prop :=
  (∀ (i : Instr) (s : State), s.busy = true → isEncoder i = false → ∃ r, exec i s = .refused r) ∧
  (∀ (s : State) (e : Refusal) (b : Byte) (op : StepOp) (cause : ResyncCause), s.notReady = some e →
    (∀ i ∈ [byteInstr op b, .stepByte b, .hciCmd, .hciAcl, .hciSync, .hciEvt, .complete, .dispatch, .resync cause,
      .drain], exec i s = .refused e) ∧
    (typeOf s.cfg b = none → exec (.notAMarker b) s = .refused e)) ∧
  (∀ s : State, s.configOk = false →
    exec .srcGet s = .refused .invalidConfig ∧ exec .reset s = .refused .invalidConfig ∧
    (s.agenda = [] → s.busy = false → s.rxq ≠ [] → step s = .refused .invalidConfig)) ∧
  (∀ (s : State) (v : Nat), staticConfigOk s.cfg = false → exec (.config v) s = .refused .invalidConfig) ∧
  ∀ (i : Instr) (s : State), encoderConfigOk s.cfg = false → isEncoder i = true →
    exec i s = .refused .invalidConfig

/-- R212 (D27), in range: `CONFIG(v)` sets `MAX_ACL_LEN` and nothing else. -/
def Obligations.ConfigSetsBound : Prop :=
  ∀ (s : State) (v : Nat), staticConfigOk s.cfg = true → s.busy = false → 4 + v ≤ s.cfg.bufCap →
    ∃ t, exec (.config v) s = .next t ∧ t.maxAclLen.toNat = v ∧ t = { s with maxAclLen := t.maxAclLen }

/-- R212 out of range, "refused and changes nothing", read as a request turned away (notes/assumptions 17). -/
def Obligations.ConfigOutOfRangeChangesNothing : Prop :=
  ∀ (s : State) (v : Nat), staticConfigOk s.cfg = true → s.busy = false → s.cfg.bufCap < 4 + v →
    exec (.config v) s = .next s

/-! ## The byte step -/

/-- R92, R93, R94: a marker opens a packet of its type; nothing but `mk`, `cnt` and `st` changes. -/
def Obligations.MarkersOpenPackets : Prop :=
  ∀ s : State, s.Ready → s.st = .awaitingMarker →
    exec (.markCmd s.cfg.markerCmd) s =
      .next { s with mkTag := some .command, cnt := 1, st := .accumulatingHeader } ∧
    exec (.markAcl s.cfg.markerAcl) s =
      .next { s with mkTag := some .aclData, cnt := 1, st := .accumulatingHeader } ∧
    exec (.markEvt s.cfg.markerEvt) s =
      .next { s with mkTag := some .event, cnt := 1, st := .accumulatingHeader }

/-- R80 with R92 to R94: the three recognised marker rows, as bytes of the stream, open a packet in
`AwaitingMarker`. -/
def Obligations.MarkerRowsOpenPackets : Prop :=
  ∀ s : State, s.Ready → s.st = .awaitingMarker →
    exec .hciCmd s = .next { s with mkTag := some .command, cnt := 1, st := .accumulatingHeader } ∧
    exec .hciAcl s = .next { s with mkTag := some .aclData, cnt := 1, st := .accumulatingHeader } ∧
    exec .hciEvt s = .next { s with mkTag := some .event, cnt := 1, st := .accumulatingHeader }

/-- R91: a byte that is no marker is dropped in `AwaitingMarker`; no register and no byte of `BUF` changes. Both the
operation `DROP` and the row `NOT_A_MARKER`. -/
def Obligations.UnrecognisedByteDropped : Prop :=
  ∀ (s : State) (b : Byte), s.Ready → s.st = .awaitingMarker → typeOf s.cfg b = none →
    exec (.drop b) s = .next s ∧ exec (.notAMarker b) s = .next s

/-- R95 (D6, notes/assumptions 8): `MARKER_SYNC` is dropped in `AwaitingMarker`. Both the operation `MARK.SYNC` and the
row `HCI_SYNC`. -/
def Obligations.SyncMarkerDropped : Prop :=
  ∀ s : State, s.Ready → s.st = .awaitingMarker →
    exec (.markSync s.cfg.markerSync) s = .next s ∧ exec .hciSync s = .next s

/-- R79, R96, R104 (notes/assumptions 19): inside a packet the byte of every marker row is data, whatever place it has:
the row does what `STEP` on its byte does, in a header byte before the last what `HDR.ACC` does, as the last header byte
what the header-completing operation of the type does, in the payload what `PAY.ACC` or, as its last byte, `PAY.END`
does. -/
def Obligations.MarkerValuesInsidePacketsAreData : Prop :=
  ∀ (s : State) (i : Instr) (b : Byte), s.Ready → i.wellFormed s.cfg = true → encode s.cfg i = some [b] →
    exec i s = exec (.stepByte b) s ∧
    (s.st = .accumulatingHeader → ∀ t h, s.mkTag = some t → headerSize t = some h → 1 ≤ s.cnt.toNat →
      (s.cnt.toNat < h → exec i s = exec (.hdrAcc b) s) ∧
      (s.cnt.toNat = h → t = .command → exec i s = exec (.hdrEndCmd b) s) ∧
      (s.cnt.toNat = h → t = .event → exec i s = exec (.hdrEndEvt b) s) ∧
      (s.cnt.toNat = h → t = .aclData → exec i s = exec (.hdrEndAcl b) s)) ∧
    (s.st = .accumulatingPayload → ∀ n, s.explen = some n →
      (s.cnt.toNat + 1 < n.toNat → exec i s = exec (.payAcc b) s) ∧
      (s.cnt.toNat + 1 = n.toNat → exec i s = exec (.payEnd b) s))

/-- R90: `STEP(b)` applies the operation its pseudocode selects, in every state of R26. -/
def Obligations.StepSelectsOperation : Prop :=
  ∀ (s : State) (b : Byte), s.Inv → s.Ready →
    (s.st = .awaitingMarker →
      exec (.stepByte b) s =
        if typeOf s.cfg b = some .command then exec (.markCmd b) s
        else if typeOf s.cfg b = some .aclData then exec (.markAcl b) s
        else if typeOf s.cfg b = some .event then exec (.markEvt b) s
        else if typeOf s.cfg b = some .synchronousData then exec (.markSync b) s
        else exec (.drop b) s) ∧
    (s.st = .accumulatingHeader → ∀ h, (∀ t, s.mkTag = some t → t ≠ .synchronousData → headerSize t = some h) →
      exec (.stepByte b) s =
        if s.mkTag = some .synchronousData ∨ s.mkTag = none then exec (.hdrRejSync b) s
        else if s.cnt.toNat < h then exec (.hdrAcc b) s
        else if s.mkTag = some .command then exec (.hdrEndCmd b) s
        else if s.mkTag = some .event then exec (.hdrEndEvt b) s
        else exec (.hdrEndAcl b) s) ∧
    (s.st = .accumulatingPayload → ∀ n, s.explen = some n →
      exec (.stepByte b) s =
        if s.cnt.toNat + 1 < n.toNat then exec (.payAcc b) s else exec (.payEnd b) s)

/-- R90, R102, R126, R147 (U25; notes/assumptions 16, 28): each of the twelve byte operations does what `STEP` does
where R90 selects it, and is refused elsewhere. `STEP` is refused where R90 selects nothing, `COMPLETE` and `DISPATCH`
outside the state they are entered with, `NOT_A_MARKER` on a marker, `TXFRAME` on what is no frame. -/
def Obligations.OperationsRunWhereSelected : Prop :=
  (∀ (s : State) (b : Byte) (op : StepOp), s.Ready →
    exec (byteInstr op b) s = if select s b = some op then exec (.stepByte b) s else .refused .notSelected) ∧
  (∀ (s : State) (b : Byte), s.Ready → select s b = none → exec (.stepByte b) s = .refused .brokenInvariant) ∧
  (∀ s : State, s.Ready → ¬ (s.st = .accumulatingPayload ∧ s.explen = some s.cnt) →
    exec .complete s = .refused .notSelected ∧ exec .dispatch s = .refused .notSelected) ∧
  (∀ (s : State) (b : Byte) (t : PacketType), typeOf s.cfg b = some t →
    exec (.notAMarker b) s = .refused .notSelected) ∧
  ∀ (s : State) (bytes : List Byte), encoderConfigOk s.cfg = true → isFrame s.cfg bytes = false →
    exec (.txFrame bytes) s = .refused .notSelected

/-- R107: in every state of R26 `STEP(b)` answers, for every byte, and touches only the decoder's registers, `BUF`, the
dispatch stream and the sink's side. -/
def Obligations.StepIsTotal : Prop :=
  ∀ (s : State) (b : Byte), s.Inv → s.Ready →
    ∃ t, exec (.stepByte b) s = .next t ∧
      t = { s with st := t.st, mkTag := t.mkTag, cnt := t.cnt, explen := t.explen, buf := t.buf,
                   busy := t.busy, dispatched := t.dispatched, sinkPlan := t.sinkPlan }

/-- R97: `HDR.ACC(b)` stores `b` at `BUF[cnt - 1]` and counts it; every other byte of `BUF` and every other field
stays. -/
def Obligations.HeaderByteStored : Prop :=
  ∀ (s : State) (b : Byte) (t : PacketType) (h : Nat), s.Ready → s.st = .accumulatingHeader → s.mkTag = some t →
    headerSize t = some h → 1 ≤ s.cnt.toNat → s.cnt.toNat < h →
    ∃ u, exec (.hdrAcc b) s = .next u ∧ u = { s with cnt := s.cnt + 1, buf := u.buf } ∧
      u.cnt.toNat = s.cnt.toNat + 1 ∧ u.buf.lookup (s.cnt.toNat - 1) = some b ∧
      ∀ a, a ≠ s.cnt.toNat - 1 → u.buf.lookup a = s.buf.lookup a

/-- R98 (D6, notes/assumptions 8): a header state of the unsupported type, or of none, is given up; the byte is not
stored. No reachable state is one. -/
def Obligations.UnsupportedHeaderRejected : Prop :=
  ∀ (s : State) (b : Byte), s.Ready → s.st = .accumulatingHeader →
    (s.mkTag = some .synchronousData ∨ s.mkTag = none) →
    exec (.hdrRejSync b) s = .next { s with mkTag := none, cnt := 0, explen := none, st := .awaitingMarker }

/-- R186 (D11): `Resync` discards the in-flight packet, whatever the cause; `BUF` is not cleared and nothing is
emitted. -/
def Obligations.ResyncDiscardsPacket : Prop :=
  ∀ (s : State) (cause : ResyncCause), s.Ready →
    exec (.resync cause) s = .next { s with mkTag := none, cnt := 0, explen := none, st := .awaitingMarker }

/-- R99 with R102 (D5, D7, D13; notes/assumptions 7, 9): the parameter-length byte ends a `Command` header; a packet
without parameters is dispatched in this step, any other enters the payload. -/
def Obligations.CommandHeaderEnds : Prop :=
  ∀ (s : State) (b : Byte), s.Ready → s.st = .accumulatingHeader → s.mkTag = some .command → s.cnt = 3 →
    s.SinkReturns →
    ∃ u, exec (.hdrEndCmd b) s = .next u ∧ u.buf.lookup 2 = some b ∧
      (∀ a, a ≠ 2 → u.buf.lookup a = s.buf.lookup a) ∧
      if b = 0 then
        u = { s with mkTag := none, cnt := 0, explen := none, st := .awaitingMarker, buf := u.buf,
                     dispatched := s.dispatched ++ [{ ptype := .command, bytes := [s.buf.byte 0, s.buf.byte 1, b], length := 3 }],
                     sinkPlan := s.sinkPlan.tail }
      else
        u = { s with cnt := 3, explen := u.explen, st := .accumulatingPayload, buf := u.buf } ∧
        ∃ n, u.explen = some n ∧ n.toNat = 3 + b.toNat

/-- R100 with R102 (D5, D7, D13; notes/assumptions 7, 9): the same for the data-length byte of an `Event` header. -/
def Obligations.EventHeaderEnds : Prop :=
  ∀ (s : State) (b : Byte), s.Ready → s.st = .accumulatingHeader → s.mkTag = some .event → s.cnt = 2 →
    s.SinkReturns →
    ∃ u, exec (.hdrEndEvt b) s = .next u ∧ u.buf.lookup 1 = some b ∧
      (∀ a, a ≠ 1 → u.buf.lookup a = s.buf.lookup a) ∧
      if b = 0 then
        u = { s with mkTag := none, cnt := 0, explen := none, st := .awaitingMarker, buf := u.buf,
                     dispatched := s.dispatched ++ [{ ptype := .event, bytes := [s.buf.byte 0, b], length := 2 }],
                     sinkPlan := s.sinkPlan.tail }
      else
        u = { s with cnt := 2, explen := u.explen, st := .accumulatingPayload, buf := u.buf } ∧
        ∃ n, u.explen = some n ∧ n.toNat = 2 + b.toNat

/-- R101 with R102 and R186 (D3, D5, D10, D12, D13; notes/assumptions 4, 7, 27): the last byte of an `AclData` header.
A length over `MAX_ACL_LEN` discards the packet, a packet without data is dispatched in this step, any other enters
the payload. -/
def Obligations.AclHeaderEnds : Prop :=
  ∀ (s : State) (b : Byte), s.Ready → s.st = .accumulatingHeader → s.mkTag = some .aclData → s.cnt = 4 →
    s.SinkReturns →
    ∃ u, exec (.hdrEndAcl b) s = .next u ∧ u.buf.lookup 3 = some b ∧
      (∀ a, a ≠ 3 → u.buf.lookup a = s.buf.lookup a) ∧
      if s.maxAclLen.toNat < (s.buf.byte 2).toNat + 256 * b.toNat then
        u = { s with mkTag := none, cnt := 0, explen := none, st := .awaitingMarker, buf := u.buf }
      else if (s.buf.byte 2).toNat + 256 * b.toNat = 0 then
        u = { s with mkTag := none, cnt := 0, explen := none, st := .awaitingMarker, buf := u.buf,
                     dispatched := s.dispatched ++
                       [{ ptype := .aclData, bytes := [s.buf.byte 0, s.buf.byte 1, s.buf.byte 2, b], length := 4 }],
                     sinkPlan := s.sinkPlan.tail }
      else
        u = { s with cnt := 4, explen := u.explen, st := .accumulatingPayload, buf := u.buf } ∧
        ∃ n, u.explen = some n ∧ n.toNat = 4 + ((s.buf.byte 2).toNat + 256 * b.toNat)

/-- R105: `PAY.ACC(b)` stores `b` at `BUF[cnt]` and counts it; every other byte of `BUF` and every other field stays. -/
def Obligations.PayloadByteStored : Prop :=
  ∀ (s : State) (b : Byte) (n : U16), s.Ready → s.st = .accumulatingPayload → s.explen = some n →
    n.toNat ≤ s.cfg.bufCap → s.cnt.toNat + 1 < n.toNat →
    ∃ u, exec (.payAcc b) s = .next u ∧ u = { s with cnt := s.cnt + 1, buf := u.buf } ∧
      u.cnt.toNat = s.cnt.toNat + 1 ∧ u.buf.lookup s.cnt.toNat = some b ∧
      ∀ a, a ≠ s.cnt.toNat → u.buf.lookup a = s.buf.lookup a

/-- R106 with R102 (D13, D15): `PAY.END(b)` stores the last payload byte, dispatches the packet and empties the
state. -/
def Obligations.LastPayloadByteCompletes : Prop :=
  ∀ (s : State) (b : Byte) (t : PacketType) (h : Nat) (n : U16), s.Ready →
    s.st = .accumulatingPayload → s.mkTag = some t → headerSize t = some h → s.explen = some n →
    n.toNat ≤ s.cfg.bufCap → s.cnt.toNat + 1 = n.toNat → s.SinkReturns →
    ∃ u, exec (.payEnd b) s = .next u ∧
      u = { s with mkTag := none, cnt := 0, explen := none, st := .awaitingMarker, buf := u.buf,
                   dispatched := s.dispatched ++
                     [{ ptype := t, bytes := s.buf.readFrom 0 s.cnt.toNat ++ [b], length := n }],
                   sinkPlan := s.sinkPlan.tail } ∧
      u.buf.lookup s.cnt.toNat = some b ∧ ∀ a, a ≠ s.cnt.toNat → u.buf.lookup a = s.buf.lookup a

/-- R102 (D13, D15): `COMPLETE` emits one `Dispatch` of `BUF[0 .. explen - 1]` and then empties the state. -/
def Obligations.CompleteDispatchesAndEmpties : Prop :=
  ∀ (s : State) (t : PacketType) (h : Nat), s.Ready → s.st = .accumulatingPayload →
    s.mkTag = some t → headerSize t = some h → s.explen = some s.cnt → s.cnt.toNat ≤ s.cfg.bufCap → s.SinkReturns →
    exec .complete s =
      .next { s with mkTag := none, cnt := 0, explen := none, st := .awaitingMarker,
                     dispatched := s.dispatched ++
                       [{ ptype := t, bytes := s.buf.readFrom 0 s.cnt.toNat, length := s.cnt }],
                     sinkPlan := s.sinkPlan.tail }

/-- R126 (D15): `DISPATCH` hands over the type, the header and payload bytes and their number; the registers keep their
values (`COMPLETE` empties them). -/
def Obligations.DispatchHandsOverPacket : Prop :=
  ∀ (s : State) (t : PacketType) (h : Nat), s.Ready → s.st = .accumulatingPayload →
    s.mkTag = some t → headerSize t = some h → s.explen = some s.cnt → s.cnt.toNat ≤ s.cfg.bufCap → s.SinkReturns →
    exec .dispatch s =
      .next { s with dispatched := s.dispatched ++
                       [{ ptype := t, bytes := s.buf.readFrom 0 s.cnt.toNat, length := s.cnt }],
                     sinkPlan := s.sinkPlan.tail }

/-- R127: what the sink returns never matters. Under any two plans of a sink that returns, every operation has the same
effect on everything but the plan itself. -/
def Obligations.SinkResultIgnored : Prop :=
  ∀ (i : Instr) (s t : State) (p q : List SinkAnswer), (∀ a ∈ p, a ≠ .never) → (∀ a ∈ q, a ≠ .never) →
    exec i { s with sinkPlan := p } = .next t →
    ∃ u, exec i { s with sinkPlan := q } = .next u ∧ t = { u with sinkPlan := t.sinkPlan }

/-- R128 with R99 to R102, R106 and R126 (D5, D13, D15; notes/assumptions 7, 13, 14): a sink that never returns leaves
the decoder inside the emit, the packet handed over; that `busy` is set and the registers keep the completed packet is
the model's choice (notes/assumptions 13). However many steps follow and whatever is delivered meanwhile, the bytes pile
up in `RXQ` and nothing else changes. Every step that completes a packet does so: the three header-completing operations
on a header that declares no payload, `PAY.END`, and `COMPLETE` alone. -/
def Obligations.SinkNeverReturningBlocks : Prop :=
  ∀ s : State, s.Ready → s.sinkAnswer = .never → s.agenda = [] →
    (s.st = .accumulatingHeader → s.mkTag = some .command → s.cnt = 3 →
      ∃ u, exec (.hdrEndCmd 0) s = .next u ∧ u.StaysBlocked ∧
        u = s.insideEmit (s.buf.write 2 0) 3
          { ptype := .command, bytes := [s.buf.byte 0, s.buf.byte 1, 0], length := 3 }) ∧
    (s.st = .accumulatingHeader → s.mkTag = some .event → s.cnt = 2 →
      ∃ u, exec (.hdrEndEvt 0) s = .next u ∧ u.StaysBlocked ∧
        u = s.insideEmit (s.buf.write 1 0) 2 { ptype := .event, bytes := [s.buf.byte 0, 0], length := 2 }) ∧
    (s.st = .accumulatingHeader → s.mkTag = some .aclData → s.cnt = 4 → s.buf.byte 2 = 0 →
      ∃ u, exec (.hdrEndAcl 0) s = .next u ∧ u.StaysBlocked ∧
        u = s.insideEmit (s.buf.write 3 0) 4
          { ptype := .aclData, bytes := [s.buf.byte 0, s.buf.byte 1, 0, 0], length := 4 }) ∧
    (s.st = .accumulatingPayload → ∀ t h n, s.mkTag = some t → headerSize t = some h → s.explen = some n →
      n.toNat ≤ s.cfg.bufCap →
      (∀ b, s.cnt.toNat + 1 = n.toNat →
        ∃ u, exec (.payEnd b) s = .next u ∧ u.StaysBlocked ∧
          u = s.insideEmit (s.buf.write s.cnt.toNat b) n
            { ptype := t, bytes := s.buf.readFrom 0 s.cnt.toNat ++ [b], length := n }) ∧
      (s.cnt = n →
        ∃ u, exec .complete s = .next u ∧ u.StaysBlocked ∧
          u = s.insideEmit s.buf n { ptype := t, bytes := s.buf.readFrom 0 n.toNat, length := n }))

/-- R108 (from its last paragraph): a byte step never goes from `AwaitingMarker` to `AccumulatingPayload`, and never
from `AccumulatingPayload` to `AccumulatingHeader`. -/
def Obligations.ForbiddenTransitions : Prop :=
  ∀ (s t : State) (b : Byte), exec (.stepByte b) s = .next t →
    (s.st = .awaitingMarker → t.st ≠ .accumulatingPayload) ∧
    (s.st = .accumulatingPayload → t.st ≠ .accumulatingHeader)

/-- R180, R181 to R183, R186: every framing error is recovered inside the step that raises it: the decoder is in the
empty state, nothing has been emitted, and the machine goes on. -/
def Obligations.FramingErrorsRecover : Prop :=
  ∀ (s : State) (b : Byte) (e : ErrorCause), s.Inv → s.Ready → stepCause s b = some e →
    ∃ t, exec (.stepByte b) s = .next t ∧ t.Empty ∧
      t = { s with st := t.st, mkTag := t.mkTag, cnt := t.cnt, explen := t.explen, buf := t.buf }

/-! ## The byte source and the drain -/

/-- R120 with R121 (D14; notes/assumptions 10, 11, 12): the three answers of `SrcGet`. On `Ok` the head leaves `RXQ`;
otherwise `RXQ` keeps its bytes; arrivals join the tail; nothing of the decoder or the outputs changes. -/
def Obligations.SourceAnswers : Prop :=
  ∀ s : State, s.configOk = true → s.busy = false →
    ∃ t, exec .srcGet s = .next t ∧
      t = { s with rxq := t.rxq, srcPlan := s.srcPlan.tail, srcAns := t.srcAns, freeIx := t.freeIx,
                   consumed := t.consumed } ∧
      if s.srcTurn.error = true then
        t.srcAns.status = .error ∧ t.rxq = s.rxq ++ s.srcTurn.arrive ∧ t.consumed = s.consumed
      else
        match s.rxq with
        | [] => t.srcAns.status = .noData ∧ t.rxq = s.srcTurn.arrive ∧ t.consumed = s.consumed
        | h :: r => t.srcAns.status = .ok ∧ t.srcAns.byte = h ∧
            (r.length < 65536 → t.srcAns.remaining.toNat = r.length) ∧ t.rxq = r ++ s.srcTurn.arrive ∧
            t.consumed = s.consumed + 1

/-- R123: a `DRAIN` that finds nothing keeps the state "exactly as the last `STEP` left it": only the byte source's side
records the call. As long as nothing arrives the decoder stays parked, however many steps pass. -/
def Obligations.DrainOfEmptyQueueKeepsState : Prop :=
  ∀ s : State, s.Ready → s.rxq = [] → s.srcTurn.error = false →
    ∃ t, exec .drain s = .next t ∧ t.srcAns.status = .noData ∧
      t = { s with rxq := s.srcTurn.arrive, srcPlan := s.srcPlan.tail, srcAns := t.srcAns, freeIx := t.freeIx } ∧
      ∀ k, s.agenda = [] → steps k s = .next s

/-- R124 (D14, notes/assumptions 10): a source `Error` ends the `DRAIN`; no byte is consumed and the decoder keeps its
state. -/
def Obligations.DrainOnSourceErrorKeepsState : Prop :=
  ∀ s : State, s.Ready → s.srcTurn.error = true →
    ∃ t, exec .drain s = .next t ∧ t.srcAns.status = .error ∧
      t = { s with rxq := s.rxq ++ s.srcTurn.arrive, srcPlan := s.srcPlan.tail, srcAns := t.srcAns,
                   freeIx := t.freeIx }

/-- R122, R131 (D14): with a healthy source and a sink that returns, one `DRAIN` consumes the whole of `RXQ`, in order,
each byte by one `STEP`. The bound on the queue is the range of `remaining` (notes/assumptions 11). -/
def Obligations.DrainConsumesQueue : Prop :=
  ∀ s : State, s.Inv → s.Ready → s.SinkAlwaysReturns → s.srcPlan = [] → s.rxq.length ≤ 65536 →
    ∃ t u, exec .drain s = .next t ∧ feed s.rxq s = .next u ∧
      t = { u with rxq := [], srcAns := t.srcAns, freeIx := t.freeIx, consumed := s.consumed + s.rxq.length }

/-- R122, R125 (notes/assumptions 14): a `DRAIN` of a non-empty queue, whatever the source and the sink do, is a run of
single steps of the machine. -/
def Obligations.DrainIsRunOfSteps : Prop :=
  ∀ s t : State, s.agenda = [] → s.rxq ≠ [] → exec .drain s = .next t → ∃ k, steps k s = .next t

/-! ## The encoder -/

/-- R140, R141, R143, R150 (D18, D19; notes/assumptions 17, 24): a request that fits `TX_CAP` emits one frame, the
marker and then the bytes unchanged; one that does not fit emits nothing. No register and no byte of `BUF` changes. -/
def Obligations.EncoderFramesOrTurnsAway : Prop :=
  ∀ (s : State) (t : PacketType) (bytes : List Byte), encoderConfigOk s.cfg = true →
    ((∀ cap, s.cfg.txCap = some cap → bytes.length + 1 ≤ cap) →
      exec (.encFrame t bytes) s = .next { s with transmitted := s.transmitted ++ [marker s.cfg t :: bytes] }) ∧
    (∀ cap, s.cfg.txCap = some cap → cap < bytes.length + 1 → exec (.encFrame t bytes) s = .next s)

/-- R144, R145, R146, R148 (D3, D4, D20; notes/assumptions 4, 5): the field-level requests that fit `TX_CAP`. The length
field is written as given. A request that needs more emits nothing (R141, D19; notes/assumptions 17). -/
def Obligations.FieldEncodersPack : Prop :=
  ∀ s : State, encoderConfigOk s.cfg = true →
    (∀ opcode plen params, (∀ cap, s.cfg.txCap = some cap → 4 + params.length ≤ cap) →
      exec (.encCmd opcode plen params) s =
        .next { s with transmitted := s.transmitted ++
          [s.cfg.markerCmd :: lowByte opcode :: highByte opcode :: plen :: params] }) ∧
    (∀ handle pb bc dlen data w, (∀ cap, s.cfg.txCap = some cap → 5 + data.length ≤ cap) →
      BitVec.toNat (w := 16) w = handle.toNat + 4096 * pb.toNat + 16384 * bc.toNat →
      exec (.encAcl handle pb bc dlen data) s =
        .next { s with transmitted := s.transmitted ++
          [s.cfg.markerAcl :: lowByte w :: highByte w :: lowByte dlen :: highByte dlen :: data] }) ∧
    (∀ code len data, (∀ cap, s.cfg.txCap = some cap → 3 + data.length ≤ cap) →
      exec (.encEvt code len data) s =
        .next { s with transmitted := s.transmitted ++ [s.cfg.markerEvt :: code :: len :: data] }) ∧
    (∀ opcode plen params cap, s.cfg.txCap = some cap → cap < 4 + params.length →
      exec (.encCmd opcode plen params) s = .next s) ∧
    (∀ handle pb bc dlen data cap, s.cfg.txCap = some cap → cap < 5 + data.length →
      exec (.encAcl handle pb bc dlen data) s = .next s) ∧
    (∀ code len data cap, s.cfg.txCap = some cap → cap < 3 + data.length →
      exec (.encEvt code len data) s = .next s)

/-- R147 (D19): a frame within `TX_CAP` is handed over whole, and nothing else changes. -/
def Obligations.FrameHandedOver : Prop :=
  ∀ (s : State) (t : PacketType) (bytes : List Byte), encoderConfigOk s.cfg = true →
    (∀ cap, s.cfg.txCap = some cap → bytes.length + 1 ≤ cap) →
    exec (.txFrame (marker s.cfg t :: bytes)) s =
      .next { s with transmitted := s.transmitted ++ [marker s.cfg t :: bytes] }

/-- R36: the encoder holds no state: what an encode operation emits depends only on its arguments and the static
configuration, and it touches nothing but the transmit stream. -/
def Obligations.EncoderIsStateless : Prop :=
  ∀ (i : Instr) (s u t : State), isEncoder i = true → u.cfg = { s.cfg with bufCap := u.cfg.bufCap } →
    exec i s = .next t →
    ∃ out, t = { s with transmitted := s.transmitted ++ out } ∧
      exec i u = .next { u with transmitted := u.transmitted ++ out }

/-- R53, R149 (D21): an encode operation and any other operation commute. -/
def Obligations.EncoderCommutesWithDecoder : Prop :=
  ∀ (e d : Instr) (s s1 s2 : State), isEncoder e = true → isEncoder d = false → exec e s = .next s1 →
    exec d s = .next s2 → ∃ t, exec d s1 = .next t ∧ exec e s2 = .next t

/-! ## The machine's step -/

/-- R54, R80, R120 (notes/assumptions 14): with no event pending, a step takes the head of `RXQ` and runs the
instruction it decodes to on the state that `SrcGet` left: the byte is gone from the queue and counted. -/
def Obligations.StepRunsDecodedInstruction : Prop :=
  ∀ (s : State) (b : Byte) (r rest : List Byte) (i : Instr), s.configOk = true → s.agenda = [] →
    s.busy = false → s.rxq = b :: r → s.srcTurn.error = false → decode s.cfg [b] = .ok (i, rest) →
    ∃ u, step s = exec i u ∧
      u = { s with rxq := r ++ s.srcTurn.arrive, srcPlan := s.srcPlan.tail, srcAns := u.srcAns, freeIx := u.freeIx,
                   consumed := s.consumed + 1 } ∧
      u.srcAns.status = .ok ∧ u.srcAns.byte = b

/-- R121, R128, R192, R229 (notes/assumptions 14): the oldest pending event is taken up first: bytes join the tail of
`RXQ`, an invocation runs its operation. With nothing pending and nothing to consume, or inside a `Dispatch` that has
not returned, the state stays. -/
def Obligations.StepTakesPendingEvents : Prop :=
  ∀ s : State,
    (∀ bytes rest, s.agenda = .deliver bytes :: rest →
      step s = .next { s with agenda := rest, rxq := s.rxq ++ bytes }) ∧
    (∀ r rest, s.agenda = .call r :: rest → step s = exec (requestInstr r) { s with agenda := rest }) ∧
    (s.agenda = [] → (s.busy = true ∨ s.rxq = []) → step s = .next s)

/-- R26: every step keeps the invariant, from every state that satisfies it. -/
def Obligations.StepKeepsInvariant : Prop :=
  ∀ s t : State, s.Inv → step s = .next t → t.Inv

/-- R103, R26: from a state of the invariant no step faults: every write and read of `BUF` is in range. -/
def Obligations.NoFaultFromInvariant : Prop :=
  ∀ (s : State) (f : Fault), s.Inv → step s ≠ .fault f

/-- R107, R184: input bytes never stop the machine: from a state of the invariant with a sink registered and no event
pending, every step answers. -/
def Obligations.InputNeverStops : Prop :=
  ∀ s : State, s.Inv → s.sink = true → s.agenda = [] → ∃ t, step s = .next t

/-- R40, R46: the two output streams are append only, under every step from every state. -/
def Obligations.OutputsOnlyGrow : Prop :=
  ∀ s t : State, step s = .next t →
    ∃ p q, t.dispatched = s.dispatched ++ p ∧ t.transmitted = s.transmitted ++ q

/-- R35 (D27): no step changes the static configuration or the sink's registration, and only a `CONFIG` changes
`MAX_ACL_LEN`, to its operand. -/
def Obligations.ConfigurationIsStatic : Prop :=
  ∀ s t : State, step s = .next t →
    t.cfg = s.cfg ∧ t.sink = s.sink ∧
      (t.maxAclLen = s.maxAclLen ∨ ∃ v rest, s.agenda = .call (.config v) :: rest ∧ t.maxAclLen.toNat = v)

/-- R126, R22: every packet that joins the dispatch stream has a supported type, and its length is the number of its
bytes, which is the header size plus the length the header declares. -/
def Obligations.DispatchedPacketsWellFormed : Prop :=
  ∀ s t : State, s.Inv → step s = .next t → (∀ p ∈ s.dispatched, ∃ h, p.Wellformed h) →
    ∀ p ∈ t.dispatched, ∃ h, p.Wellformed h

/-! ## The properties of decoder and encoder together -/

/-- R160: a valid packet, encoded and fed to the decoder in the empty state, is dispatched as it was, and the decoder is
back in the empty state. -/
def Obligations.RoundTrip : Prop :=
  ∀ (s : State) (t : PacketType) (h p : List Byte), s.Ready → s.Empty → s.SinkReturns →
    ValidPacket s.maxAclLen t h p →
    (∀ cap, s.cfg.txCap = some cap → (h ++ p).length + 1 ≤ cap) →
    ∃ f u n, exec (.encFrame t (h ++ p)) s = .next { s with transmitted := s.transmitted ++ [f] } ∧
      feed f s = .next u ∧ BitVec.toNat (w := 16) n = h.length + p.length ∧
      u = { s with buf := u.buf, dispatched := s.dispatched ++ [{ ptype := t, bytes := h ++ p, length := n }],
                   sinkPlan := s.sinkPlan.tail }

/-- R160 for header fields (D3, D4; notes/assumptions 4, 5): the fields given to a field-level encode request are those
unpacked from the first header bytes of the packet that the decoder dispatches from its frame. -/
def Obligations.FieldRoundTrip : Prop :=
  ∀ s : State, s.Ready → s.Empty → s.SinkReturns →
    (∀ opcode plen params, params.length = plen.toNat →
      (∀ cap, s.cfg.txCap = some cap → 4 + params.length ≤ cap) →
      ∃ f u b0 b1 b2 n, exec (.encCmd opcode plen params) s = .next { s with transmitted := s.transmitted ++ [f] } ∧
        feed f s = .next u ∧
        u.dispatched = s.dispatched ++ [{ ptype := .command, bytes := b0 :: b1 :: b2 :: params, length := n }] ∧
        unpackCmd b0 b1 b2 = (opcode, plen)) ∧
    (∀ handle pb bc dlen data, data.length = dlen.toNat → dlen.toNat ≤ s.maxAclLen.toNat →
      (∀ cap, s.cfg.txCap = some cap → 5 + data.length ≤ cap) →
      ∃ f u b0 b1 b2 b3 n,
        exec (.encAcl handle pb bc dlen data) s = .next { s with transmitted := s.transmitted ++ [f] } ∧
        feed f s = .next u ∧
        u.dispatched =
          s.dispatched ++ [{ ptype := .aclData, bytes := b0 :: b1 :: b2 :: b3 :: data, length := n }] ∧
        unpackAcl b0 b1 b2 b3 = (handle, pb, bc, dlen)) ∧
    (∀ code len data, data.length = len.toNat →
      (∀ cap, s.cfg.txCap = some cap → 3 + data.length ≤ cap) →
      ∃ f u b0 b1 n, exec (.encEvt code len data) s = .next { s with transmitted := s.transmitted ++ [f] } ∧
        feed f s = .next u ∧
        u.dispatched = s.dispatched ++ [{ ptype := .event, bytes := b0 :: b1 :: data, length := n }] ∧
        unpackEvt b0 b1 = (code, len))

/-- R161: however the input is split over two `DRAIN` invocations, the decoder, the outputs and the count of consumed
bytes end the same as with one. -/
def Obligations.ChunkInvariance : Prop :=
  ∀ (s : State) (x y : List Byte), s.Inv → s.Ready → s.SinkAlwaysReturns → s.srcPlan = [] → s.rxq = [] →
    (x ++ y).length ≤ 65536 →
    ∃ t1 t2 t, exec .drain { s with rxq := x } = .next t1 ∧ exec .drain { t1 with rxq := y } = .next t2 ∧
      exec .drain { s with rxq := x ++ y } = .next t ∧ t = { t2 with srcAns := t.srcAns, freeIx := t.freeIx }

/-- R162: bytes that are none of the three recognised markers have no effect in `AwaitingMarker`, whatever follows
them. -/
def Obligations.GarbageHasNoEffect : Prop :=
  ∀ (s : State) (g w : List Byte), s.Ready → s.Empty →
    (∀ b ∈ g, typeOf s.cfg b = none ∨ typeOf s.cfg b = some .synchronousData) → feed (g ++ w) s = feed w s

/-- R163, R187 (D3, D12; notes/assumptions 4, 27): an `AclData` header over the bound is discarded with its five bytes;
no packet is emitted and what follows is decoded from the empty state. -/
def Obligations.OversizedHeaderRejected : Prop :=
  ∀ (s : State) (a b lo hi : Byte), s.Ready → s.Empty → s.maxAclLen.toNat < lo.toNat + 256 * hi.toNat →
    ∃ u, feed [s.cfg.markerAcl, a, b, lo, hi] s = .next u ∧ u = { s with buf := u.buf } ∧
      ∀ w, feed ([s.cfg.markerAcl, a, b, lo, hi] ++ w) s = feed w u

/-- R27, R23, U2 (D11, D17): what stands in `BUF` when the decoder is in the empty state cannot be observed: over any
input the registers and the outputs are the same whatever it holds. -/
def Obligations.StaleBufferUnobservable : Prop :=
  ∀ (s t : State) (m : Memory) (w : List Byte), s.Empty → feed w s = .next t →
    ∃ u, feed w { s with buf := m } = .next u ∧ u = { t with buf := u.buf }

/-- R164: (a) a header-only packet is dispatched, with the header size as its length; (b) a packet of the largest
payload is dispatched, with lengths 258, 257 and `4 + MAX_ACL_LEN`; (c) one byte over the maximum is rejected. -/
def Obligations.BoundaryLengths : Prop :=
  ∀ s : State, s.Ready → s.Empty → s.SinkReturns →
    (∀ t h, headerLength t h = some 0 →
      ∃ u n, feed (frame s.cfg t h) s = .next u ∧ u.Empty ∧ headerSize t = some (BitVec.toNat (w := 16) n) ∧
        u.dispatched = s.dispatched ++ [{ ptype := t, bytes := h, length := n }]) ∧
    (∀ t h p largest, (t, largest) ∈ [(.command, 255), (.event, 255), (.aclData, s.maxAclLen.toNat)] →
      headerLength t h = some p.length → p.length = largest →
      ∃ u n k, feed (frame s.cfg t (h ++ p)) s = .next u ∧ u.Empty ∧ headerSize t = some k ∧
        BitVec.toNat (w := 16) n = k + largest ∧
        u.dispatched = s.dispatched ++ [{ ptype := t, bytes := h ++ p, length := n }]) ∧
    (∀ h, headerLength .aclData h = some (s.maxAclLen.toNat + 1) →
      ∃ u, feed (frame s.cfg .aclData h) s = .next u ∧ u.Empty ∧ u.dispatched = s.dispatched)

/-- R165: a stream of valid packets of any mixture of types is dispatched packet by packet, in order, each with its own
type and bytes. -/
def Obligations.InterleavedPacketsFramed : Prop :=
  ∀ (s : State) (l : List (PacketType × List Byte × List Byte)), s.Ready → s.Empty → s.SinkAlwaysReturns →
    (∀ x ∈ l, ValidPacket s.maxAclLen x.1 x.2.1 x.2.2) →
    ∃ u, feed (l.flatMap fun x => frame s.cfg x.1 (x.2.1 ++ x.2.2)) s = .next u ∧
      u = { s with
            buf := u.buf
            dispatched := s.dispatched ++ l.map fun x =>
              { ptype := x.1, bytes := x.2.1 ++ x.2.2,
                length := BitVec.ofNat 16 (x.2.1.length + x.2.2.length) }
            sinkPlan := s.sinkPlan.drop l.length }

/-- R166: every dispatched packet, with its marker in front, is a contiguous piece of the input; the pieces do not
overlap and stand in output order. -/
def Obligations.PacketsAreInInput : Prop :=
  ∀ (s t : State) (x : List Byte), s.Empty → feed x s = .next t →
    ∃ out, t.dispatched = s.dispatched ++ out ∧ Segments s.cfg x out

/-- R167 (D5, notes/assumptions 7): a non-empty proper beginning of a valid frame emits nothing and leaves the state that
waits for the rest. -/
def Obligations.PartialPacketResumable : Prop :=
  ∀ (s : State) (t : PacketType) (h p : List Byte) (k : Nat), s.Ready → s.Empty → ValidPacket s.maxAclLen t h p →
    0 < k → k < (frame s.cfg t (h ++ p)).length →
    ∃ u, feed ((frame s.cfg t (h ++ p)).take k) s = .next u ∧ u.dispatched = s.dispatched ∧ u.mkTag = some t ∧
      if k ≤ h.length then u.st = .accumulatingHeader ∧ u.cnt.toNat = k ∧ u.explen = none
      else u.st = .accumulatingPayload ∧ u.cnt.toNat = k - 1 ∧
        ∃ n, u.explen = some n ∧ n.toNat = h.length + p.length

/-- R168: with the bound unchanged, the decoder passes through `AwaitingMarker` within
`1 + max(258, 4 + MAX_ACL_LEN)` bytes, whatever they are. -/
def Obligations.ReturnsToAwaitingMarker : Prop :=
  ∀ (s : State) (x : List Byte), s.Inv → s.Ready → s.SinkAlwaysReturns →
    (∀ n, s.explen = some n → n.toNat ≤ max 258 (4 + s.maxAclLen.toNat)) →
    1 + max 258 (4 + s.maxAclLen.toNat) ≤ x.length →
    ∃ k u, 1 ≤ k ∧ k ≤ 1 + max 258 (4 + s.maxAclLen.toNat) ∧ feed (x.take k) s = .next u ∧ u.st = .awaitingMarker
end

