-- ==== Sys2Proof/Laws/State.lean ====
section
/-! SUPPORT. One lemma per field per named update of the state, so that no later proof unfolds a record update. -/

namespace Sys2Proof.Machine

variable (s : State)

@[simp] theorem State.setCnt_st (n : U16) : (s.setCnt n).st = s.st := rfl
@[simp] theorem State.setCnt_mkTag (n : U16) : (s.setCnt n).mkTag = s.mkTag := rfl
@[simp] theorem State.setCnt_cnt (n : U16) : (s.setCnt n).cnt = n := rfl
@[simp] theorem State.setCnt_explen (n : U16) : (s.setCnt n).explen = s.explen := rfl
@[simp] theorem State.setCnt_buf (n : U16) : (s.setCnt n).buf = s.buf := rfl
@[simp] theorem State.setCnt_busy (n : U16) : (s.setCnt n).busy = s.busy := rfl
@[simp] theorem State.setCnt_maxAclLen (n : U16) : (s.setCnt n).maxAclLen = s.maxAclLen := rfl
@[simp] theorem State.setCnt_cfg (n : U16) : (s.setCnt n).cfg = s.cfg := rfl
@[simp] theorem State.setCnt_sink (n : U16) : (s.setCnt n).sink = s.sink := rfl
@[simp] theorem State.setCnt_rxq (n : U16) : (s.setCnt n).rxq = s.rxq := rfl
@[simp] theorem State.setCnt_srcPlan (n : U16) : (s.setCnt n).srcPlan = s.srcPlan := rfl
@[simp] theorem State.setCnt_srcAns (n : U16) : (s.setCnt n).srcAns = s.srcAns := rfl
@[simp] theorem State.setCnt_freeIx (n : U16) : (s.setCnt n).freeIx = s.freeIx := rfl
@[simp] theorem State.setCnt_consumed (n : U16) : (s.setCnt n).consumed = s.consumed := rfl
@[simp] theorem State.setCnt_sinkPlan (n : U16) : (s.setCnt n).sinkPlan = s.sinkPlan := rfl
@[simp] theorem State.setCnt_dispatched (n : U16) : (s.setCnt n).dispatched = s.dispatched := rfl
@[simp] theorem State.setCnt_transmitted (n : U16) : (s.setCnt n).transmitted = s.transmitted := rfl
@[simp] theorem State.setCnt_agenda (n : U16) : (s.setCnt n).agenda = s.agenda := rfl

@[simp] theorem State.putByte_st (a : Nat) (b : Byte) : (s.putByte a b).st = s.st := rfl
@[simp] theorem State.putByte_mkTag (a : Nat) (b : Byte) : (s.putByte a b).mkTag = s.mkTag := rfl
@[simp] theorem State.putByte_cnt (a : Nat) (b : Byte) : (s.putByte a b).cnt = s.cnt := rfl
@[simp] theorem State.putByte_explen (a : Nat) (b : Byte) : (s.putByte a b).explen = s.explen := rfl
@[simp] theorem State.putByte_buf (a : Nat) (b : Byte) : (s.putByte a b).buf = s.buf.write a b := rfl
@[simp] theorem State.putByte_busy (a : Nat) (b : Byte) : (s.putByte a b).busy = s.busy := rfl
@[simp] theorem State.putByte_maxAclLen (a : Nat) (b : Byte) : (s.putByte a b).maxAclLen = s.maxAclLen := rfl
@[simp] theorem State.putByte_cfg (a : Nat) (b : Byte) : (s.putByte a b).cfg = s.cfg := rfl
@[simp] theorem State.putByte_sink (a : Nat) (b : Byte) : (s.putByte a b).sink = s.sink := rfl
@[simp] theorem State.putByte_rxq (a : Nat) (b : Byte) : (s.putByte a b).rxq = s.rxq := rfl
@[simp] theorem State.putByte_srcPlan (a : Nat) (b : Byte) : (s.putByte a b).srcPlan = s.srcPlan := rfl
@[simp] theorem State.putByte_srcAns (a : Nat) (b : Byte) : (s.putByte a b).srcAns = s.srcAns := rfl
@[simp] theorem State.putByte_freeIx (a : Nat) (b : Byte) : (s.putByte a b).freeIx = s.freeIx := rfl
@[simp] theorem State.putByte_consumed (a : Nat) (b : Byte) : (s.putByte a b).consumed = s.consumed := rfl
@[simp] theorem State.putByte_sinkPlan (a : Nat) (b : Byte) : (s.putByte a b).sinkPlan = s.sinkPlan := rfl
@[simp] theorem State.putByte_dispatched (a : Nat) (b : Byte) : (s.putByte a b).dispatched = s.dispatched := rfl
@[simp] theorem State.putByte_transmitted (a : Nat) (b : Byte) : (s.putByte a b).transmitted = s.transmitted := rfl
@[simp] theorem State.putByte_agenda (a : Nat) (b : Byte) : (s.putByte a b).agenda = s.agenda := rfl

@[simp] theorem State.setMaxAclLen_st (v : U16) : (s.setMaxAclLen v).st = s.st := rfl
@[simp] theorem State.setMaxAclLen_mkTag (v : U16) : (s.setMaxAclLen v).mkTag = s.mkTag := rfl
@[simp] theorem State.setMaxAclLen_cnt (v : U16) : (s.setMaxAclLen v).cnt = s.cnt := rfl
@[simp] theorem State.setMaxAclLen_explen (v : U16) : (s.setMaxAclLen v).explen = s.explen := rfl
@[simp] theorem State.setMaxAclLen_buf (v : U16) : (s.setMaxAclLen v).buf = s.buf := rfl
@[simp] theorem State.setMaxAclLen_busy (v : U16) : (s.setMaxAclLen v).busy = s.busy := rfl
@[simp] theorem State.setMaxAclLen_maxAclLen (v : U16) : (s.setMaxAclLen v).maxAclLen = v := rfl
@[simp] theorem State.setMaxAclLen_cfg (v : U16) : (s.setMaxAclLen v).cfg = s.cfg := rfl
@[simp] theorem State.setMaxAclLen_sink (v : U16) : (s.setMaxAclLen v).sink = s.sink := rfl
@[simp] theorem State.setMaxAclLen_rxq (v : U16) : (s.setMaxAclLen v).rxq = s.rxq := rfl
@[simp] theorem State.setMaxAclLen_srcPlan (v : U16) : (s.setMaxAclLen v).srcPlan = s.srcPlan := rfl
@[simp] theorem State.setMaxAclLen_srcAns (v : U16) : (s.setMaxAclLen v).srcAns = s.srcAns := rfl
@[simp] theorem State.setMaxAclLen_freeIx (v : U16) : (s.setMaxAclLen v).freeIx = s.freeIx := rfl
@[simp] theorem State.setMaxAclLen_consumed (v : U16) : (s.setMaxAclLen v).consumed = s.consumed := rfl
@[simp] theorem State.setMaxAclLen_sinkPlan (v : U16) : (s.setMaxAclLen v).sinkPlan = s.sinkPlan := rfl
@[simp] theorem State.setMaxAclLen_dispatched (v : U16) : (s.setMaxAclLen v).dispatched = s.dispatched := rfl
@[simp] theorem State.setMaxAclLen_transmitted (v : U16) : (s.setMaxAclLen v).transmitted = s.transmitted := rfl
@[simp] theorem State.setMaxAclLen_agenda (v : U16) : (s.setMaxAclLen v).agenda = s.agenda := rfl

@[simp] theorem State.openPacket_st (t : PacketType) : (s.openPacket t).st = .accumulatingHeader := rfl
@[simp] theorem State.openPacket_mkTag (t : PacketType) : (s.openPacket t).mkTag = some t := rfl
@[simp] theorem State.openPacket_cnt (t : PacketType) : (s.openPacket t).cnt = 1 := rfl
@[simp] theorem State.openPacket_explen (t : PacketType) : (s.openPacket t).explen = s.explen := rfl
@[simp] theorem State.openPacket_buf (t : PacketType) : (s.openPacket t).buf = s.buf := rfl
@[simp] theorem State.openPacket_busy (t : PacketType) : (s.openPacket t).busy = s.busy := rfl
@[simp] theorem State.openPacket_maxAclLen (t : PacketType) : (s.openPacket t).maxAclLen = s.maxAclLen := rfl
@[simp] theorem State.openPacket_cfg (t : PacketType) : (s.openPacket t).cfg = s.cfg := rfl
@[simp] theorem State.openPacket_sink (t : PacketType) : (s.openPacket t).sink = s.sink := rfl
@[simp] theorem State.openPacket_rxq (t : PacketType) : (s.openPacket t).rxq = s.rxq := rfl
@[simp] theorem State.openPacket_srcPlan (t : PacketType) : (s.openPacket t).srcPlan = s.srcPlan := rfl
@[simp] theorem State.openPacket_srcAns (t : PacketType) : (s.openPacket t).srcAns = s.srcAns := rfl
@[simp] theorem State.openPacket_freeIx (t : PacketType) : (s.openPacket t).freeIx = s.freeIx := rfl
@[simp] theorem State.openPacket_consumed (t : PacketType) : (s.openPacket t).consumed = s.consumed := rfl
@[simp] theorem State.openPacket_sinkPlan (t : PacketType) : (s.openPacket t).sinkPlan = s.sinkPlan := rfl
@[simp] theorem State.openPacket_dispatched (t : PacketType) : (s.openPacket t).dispatched = s.dispatched := rfl
@[simp] theorem State.openPacket_transmitted (t : PacketType) : (s.openPacket t).transmitted = s.transmitted := rfl
@[simp] theorem State.openPacket_agenda (t : PacketType) : (s.openPacket t).agenda = s.agenda := rfl

@[simp] theorem State.enterPayload_st (n h : U16) : (s.enterPayload n h).st = .accumulatingPayload := rfl
@[simp] theorem State.enterPayload_mkTag (n h : U16) : (s.enterPayload n h).mkTag = s.mkTag := rfl
@[simp] theorem State.enterPayload_cnt (n h : U16) : (s.enterPayload n h).cnt = h := rfl
@[simp] theorem State.enterPayload_explen (n h : U16) : (s.enterPayload n h).explen = some n := rfl
@[simp] theorem State.enterPayload_buf (n h : U16) : (s.enterPayload n h).buf = s.buf := rfl
@[simp] theorem State.enterPayload_busy (n h : U16) : (s.enterPayload n h).busy = s.busy := rfl
@[simp] theorem State.enterPayload_maxAclLen (n h : U16) : (s.enterPayload n h).maxAclLen = s.maxAclLen := rfl
@[simp] theorem State.enterPayload_cfg (n h : U16) : (s.enterPayload n h).cfg = s.cfg := rfl
@[simp] theorem State.enterPayload_sink (n h : U16) : (s.enterPayload n h).sink = s.sink := rfl
@[simp] theorem State.enterPayload_rxq (n h : U16) : (s.enterPayload n h).rxq = s.rxq := rfl
@[simp] theorem State.enterPayload_srcPlan (n h : U16) : (s.enterPayload n h).srcPlan = s.srcPlan := rfl
@[simp] theorem State.enterPayload_srcAns (n h : U16) : (s.enterPayload n h).srcAns = s.srcAns := rfl
@[simp] theorem State.enterPayload_freeIx (n h : U16) : (s.enterPayload n h).freeIx = s.freeIx := rfl
@[simp] theorem State.enterPayload_consumed (n h : U16) : (s.enterPayload n h).consumed = s.consumed := rfl
@[simp] theorem State.enterPayload_sinkPlan (n h : U16) : (s.enterPayload n h).sinkPlan = s.sinkPlan := rfl
@[simp] theorem State.enterPayload_dispatched (n h : U16) : (s.enterPayload n h).dispatched = s.dispatched := rfl
@[simp] theorem State.enterPayload_transmitted (n h : U16) : (s.enterPayload n h).transmitted = s.transmitted := rfl
@[simp] theorem State.enterPayload_agenda (n h : U16) : (s.enterPayload n h).agenda = s.agenda := rfl

@[simp] theorem State.emptied_st : s.emptied.st = .awaitingMarker := rfl
@[simp] theorem State.emptied_mkTag : s.emptied.mkTag = none := rfl
@[simp] theorem State.emptied_cnt : s.emptied.cnt = 0 := rfl
@[simp] theorem State.emptied_explen : s.emptied.explen = none := rfl
@[simp] theorem State.emptied_buf : s.emptied.buf = s.buf := rfl
@[simp] theorem State.emptied_busy : s.emptied.busy = s.busy := rfl
@[simp] theorem State.emptied_maxAclLen : s.emptied.maxAclLen = s.maxAclLen := rfl
@[simp] theorem State.emptied_cfg : s.emptied.cfg = s.cfg := rfl
@[simp] theorem State.emptied_sink : s.emptied.sink = s.sink := rfl
@[simp] theorem State.emptied_rxq : s.emptied.rxq = s.rxq := rfl
@[simp] theorem State.emptied_srcPlan : s.emptied.srcPlan = s.srcPlan := rfl
@[simp] theorem State.emptied_srcAns : s.emptied.srcAns = s.srcAns := rfl
@[simp] theorem State.emptied_freeIx : s.emptied.freeIx = s.freeIx := rfl
@[simp] theorem State.emptied_consumed : s.emptied.consumed = s.consumed := rfl
@[simp] theorem State.emptied_sinkPlan : s.emptied.sinkPlan = s.sinkPlan := rfl
@[simp] theorem State.emptied_dispatched : s.emptied.dispatched = s.dispatched := rfl
@[simp] theorem State.emptied_transmitted : s.emptied.transmitted = s.transmitted := rfl
@[simp] theorem State.emptied_agenda : s.emptied.agenda = s.agenda := rfl

@[simp] theorem State.clearBusy_st : s.clearBusy.st = s.st := rfl
@[simp] theorem State.clearBusy_mkTag : s.clearBusy.mkTag = s.mkTag := rfl
@[simp] theorem State.clearBusy_cnt : s.clearBusy.cnt = s.cnt := rfl
@[simp] theorem State.clearBusy_explen : s.clearBusy.explen = s.explen := rfl
@[simp] theorem State.clearBusy_buf : s.clearBusy.buf = s.buf := rfl
@[simp] theorem State.clearBusy_busy : s.clearBusy.busy = false := rfl
@[simp] theorem State.clearBusy_maxAclLen : s.clearBusy.maxAclLen = s.maxAclLen := rfl
@[simp] theorem State.clearBusy_cfg : s.clearBusy.cfg = s.cfg := rfl
@[simp] theorem State.clearBusy_sink : s.clearBusy.sink = s.sink := rfl
@[simp] theorem State.clearBusy_rxq : s.clearBusy.rxq = s.rxq := rfl
@[simp] theorem State.clearBusy_srcPlan : s.clearBusy.srcPlan = s.srcPlan := rfl
@[simp] theorem State.clearBusy_srcAns : s.clearBusy.srcAns = s.srcAns := rfl
@[simp] theorem State.clearBusy_freeIx : s.clearBusy.freeIx = s.freeIx := rfl
@[simp] theorem State.clearBusy_consumed : s.clearBusy.consumed = s.consumed := rfl
@[simp] theorem State.clearBusy_sinkPlan : s.clearBusy.sinkPlan = s.sinkPlan := rfl
@[simp] theorem State.clearBusy_dispatched : s.clearBusy.dispatched = s.dispatched := rfl
@[simp] theorem State.clearBusy_transmitted : s.clearBusy.transmitted = s.transmitted := rfl
@[simp] theorem State.clearBusy_agenda : s.clearBusy.agenda = s.agenda := rfl

@[simp] theorem State.logDispatch_st (p : Packet) : (s.logDispatch p).st = s.st := rfl
@[simp] theorem State.logDispatch_mkTag (p : Packet) : (s.logDispatch p).mkTag = s.mkTag := rfl
@[simp] theorem State.logDispatch_cnt (p : Packet) : (s.logDispatch p).cnt = s.cnt := rfl
@[simp] theorem State.logDispatch_explen (p : Packet) : (s.logDispatch p).explen = s.explen := rfl
@[simp] theorem State.logDispatch_buf (p : Packet) : (s.logDispatch p).buf = s.buf := rfl
@[simp] theorem State.logDispatch_busy (p : Packet) : (s.logDispatch p).busy = s.sinkBlocks := rfl
@[simp] theorem State.logDispatch_maxAclLen (p : Packet) : (s.logDispatch p).maxAclLen = s.maxAclLen := rfl
@[simp] theorem State.logDispatch_cfg (p : Packet) : (s.logDispatch p).cfg = s.cfg := rfl
@[simp] theorem State.logDispatch_sink (p : Packet) : (s.logDispatch p).sink = s.sink := rfl
@[simp] theorem State.logDispatch_rxq (p : Packet) : (s.logDispatch p).rxq = s.rxq := rfl
@[simp] theorem State.logDispatch_srcPlan (p : Packet) : (s.logDispatch p).srcPlan = s.srcPlan := rfl
@[simp] theorem State.logDispatch_srcAns (p : Packet) : (s.logDispatch p).srcAns = s.srcAns := rfl
@[simp] theorem State.logDispatch_freeIx (p : Packet) : (s.logDispatch p).freeIx = s.freeIx := rfl
@[simp] theorem State.logDispatch_consumed (p : Packet) : (s.logDispatch p).consumed = s.consumed := rfl
@[simp] theorem State.logDispatch_sinkPlan (p : Packet) : (s.logDispatch p).sinkPlan = s.sinkPlan.tail := rfl
@[simp] theorem State.logDispatch_dispatched (p : Packet) : (s.logDispatch p).dispatched = s.dispatched ++ [p] := rfl
@[simp] theorem State.logDispatch_transmitted (p : Packet) : (s.logDispatch p).transmitted = s.transmitted := rfl
@[simp] theorem State.logDispatch_agenda (p : Packet) : (s.logDispatch p).agenda = s.agenda := rfl

@[simp] theorem State.logFrame_st (f : List Byte) : (s.logFrame f).st = s.st := rfl
@[simp] theorem State.logFrame_mkTag (f : List Byte) : (s.logFrame f).mkTag = s.mkTag := rfl
@[simp] theorem State.logFrame_cnt (f : List Byte) : (s.logFrame f).cnt = s.cnt := rfl
@[simp] theorem State.logFrame_explen (f : List Byte) : (s.logFrame f).explen = s.explen := rfl
@[simp] theorem State.logFrame_buf (f : List Byte) : (s.logFrame f).buf = s.buf := rfl
@[simp] theorem State.logFrame_busy (f : List Byte) : (s.logFrame f).busy = s.busy := rfl
@[simp] theorem State.logFrame_maxAclLen (f : List Byte) : (s.logFrame f).maxAclLen = s.maxAclLen := rfl
@[simp] theorem State.logFrame_cfg (f : List Byte) : (s.logFrame f).cfg = s.cfg := rfl
@[simp] theorem State.logFrame_sink (f : List Byte) : (s.logFrame f).sink = s.sink := rfl
@[simp] theorem State.logFrame_rxq (f : List Byte) : (s.logFrame f).rxq = s.rxq := rfl
@[simp] theorem State.logFrame_srcPlan (f : List Byte) : (s.logFrame f).srcPlan = s.srcPlan := rfl
@[simp] theorem State.logFrame_srcAns (f : List Byte) : (s.logFrame f).srcAns = s.srcAns := rfl
@[simp] theorem State.logFrame_freeIx (f : List Byte) : (s.logFrame f).freeIx = s.freeIx := rfl
@[simp] theorem State.logFrame_consumed (f : List Byte) : (s.logFrame f).consumed = s.consumed := rfl
@[simp] theorem State.logFrame_sinkPlan (f : List Byte) : (s.logFrame f).sinkPlan = s.sinkPlan := rfl
@[simp] theorem State.logFrame_dispatched (f : List Byte) : (s.logFrame f).dispatched = s.dispatched := rfl
@[simp] theorem State.logFrame_transmitted (f : List Byte) : (s.logFrame f).transmitted = s.transmitted ++ [f] := rfl
@[simp] theorem State.logFrame_agenda (f : List Byte) : (s.logFrame f).agenda = s.agenda := rfl

@[simp] theorem State.answerNone_st (e : SrcStatus) (q : List Byte) : (s.answerNone e q).st = s.st := rfl
@[simp] theorem State.answerNone_mkTag (e : SrcStatus) (q : List Byte) : (s.answerNone e q).mkTag = s.mkTag := rfl
@[simp] theorem State.answerNone_cnt (e : SrcStatus) (q : List Byte) : (s.answerNone e q).cnt = s.cnt := rfl
@[simp] theorem State.answerNone_explen (e : SrcStatus) (q : List Byte) : (s.answerNone e q).explen = s.explen := rfl
@[simp] theorem State.answerNone_buf (e : SrcStatus) (q : List Byte) : (s.answerNone e q).buf = s.buf := rfl
@[simp] theorem State.answerNone_busy (e : SrcStatus) (q : List Byte) : (s.answerNone e q).busy = s.busy := rfl
@[simp] theorem State.answerNone_maxAclLen (e : SrcStatus) (q : List Byte) :
    (s.answerNone e q).maxAclLen = s.maxAclLen := rfl
@[simp] theorem State.answerNone_cfg (e : SrcStatus) (q : List Byte) : (s.answerNone e q).cfg = s.cfg := rfl
@[simp] theorem State.answerNone_sink (e : SrcStatus) (q : List Byte) : (s.answerNone e q).sink = s.sink := rfl
@[simp] theorem State.answerNone_rxq (e : SrcStatus) (q : List Byte) : (s.answerNone e q).rxq = q := rfl
@[simp] theorem State.answerNone_srcPlan (e : SrcStatus) (q : List Byte) :
    (s.answerNone e q).srcPlan = s.srcPlan.tail := rfl
@[simp] theorem State.answerNone_srcAns (e : SrcStatus) (q : List Byte) :
    (s.answerNone e q).srcAns = { status := e, byte := Config.freeByte s.freeIx, remaining := Config.freeRemaining s.freeIx } := rfl
@[simp] theorem State.answerNone_freeIx (e : SrcStatus) (q : List Byte) :
    (s.answerNone e q).freeIx = s.freeIx + 1 := rfl
@[simp] theorem State.answerNone_consumed (e : SrcStatus) (q : List Byte) :
    (s.answerNone e q).consumed = s.consumed := rfl
@[simp] theorem State.answerNone_sinkPlan (e : SrcStatus) (q : List Byte) :
    (s.answerNone e q).sinkPlan = s.sinkPlan := rfl
@[simp] theorem State.answerNone_dispatched (e : SrcStatus) (q : List Byte) :
    (s.answerNone e q).dispatched = s.dispatched := rfl
@[simp] theorem State.answerNone_transmitted (e : SrcStatus) (q : List Byte) :
    (s.answerNone e q).transmitted = s.transmitted := rfl
@[simp] theorem State.answerNone_agenda (e : SrcStatus) (q : List Byte) : (s.answerNone e q).agenda = s.agenda := rfl

@[simp] theorem State.answerByte_st (h : Byte) (n : Nat) (q : List Byte) : (s.answerByte h n q).st = s.st := rfl
@[simp] theorem State.answerByte_mkTag (h : Byte) (n : Nat) (q : List Byte) :
    (s.answerByte h n q).mkTag = s.mkTag := rfl
@[simp] theorem State.answerByte_cnt (h : Byte) (n : Nat) (q : List Byte) : (s.answerByte h n q).cnt = s.cnt := rfl
@[simp] theorem State.answerByte_explen (h : Byte) (n : Nat) (q : List Byte) :
    (s.answerByte h n q).explen = s.explen := rfl
@[simp] theorem State.answerByte_buf (h : Byte) (n : Nat) (q : List Byte) : (s.answerByte h n q).buf = s.buf := rfl
@[simp] theorem State.answerByte_busy (h : Byte) (n : Nat) (q : List Byte) : (s.answerByte h n q).busy = s.busy := rfl
@[simp] theorem State.answerByte_maxAclLen (h : Byte) (n : Nat) (q : List Byte) :
    (s.answerByte h n q).maxAclLen = s.maxAclLen := rfl
@[simp] theorem State.answerByte_cfg (h : Byte) (n : Nat) (q : List Byte) : (s.answerByte h n q).cfg = s.cfg := rfl
@[simp] theorem State.answerByte_sink (h : Byte) (n : Nat) (q : List Byte) : (s.answerByte h n q).sink = s.sink := rfl
@[simp] theorem State.answerByte_rxq (h : Byte) (n : Nat) (q : List Byte) : (s.answerByte h n q).rxq = q := rfl
@[simp] theorem State.answerByte_srcPlan (h : Byte) (n : Nat) (q : List Byte) :
    (s.answerByte h n q).srcPlan = s.srcPlan.tail := rfl
@[simp] theorem State.answerByte_srcAns (h : Byte) (n : Nat) (q : List Byte) :
    (s.answerByte h n q).srcAns = { status := .ok, byte := h, remaining := remainingOf s.freeIx n } := rfl
@[simp] theorem State.answerByte_freeIx (h : Byte) (n : Nat) (q : List Byte) :
    (s.answerByte h n q).freeIx = s.freeIx + 1 := rfl
@[simp] theorem State.answerByte_consumed (h : Byte) (n : Nat) (q : List Byte) :
    (s.answerByte h n q).consumed = s.consumed + 1 := rfl
@[simp] theorem State.answerByte_sinkPlan (h : Byte) (n : Nat) (q : List Byte) :
    (s.answerByte h n q).sinkPlan = s.sinkPlan := rfl
@[simp] theorem State.answerByte_dispatched (h : Byte) (n : Nat) (q : List Byte) :
    (s.answerByte h n q).dispatched = s.dispatched := rfl
@[simp] theorem State.answerByte_transmitted (h : Byte) (n : Nat) (q : List Byte) :
    (s.answerByte h n q).transmitted = s.transmitted := rfl
@[simp] theorem State.answerByte_agenda (h : Byte) (n : Nat) (q : List Byte) :
    (s.answerByte h n q).agenda = s.agenda := rfl

@[simp] theorem State.appendRx_st (bs : List Byte) : (s.appendRx bs).st = s.st := rfl
@[simp] theorem State.appendRx_mkTag (bs : List Byte) : (s.appendRx bs).mkTag = s.mkTag := rfl
@[simp] theorem State.appendRx_cnt (bs : List Byte) : (s.appendRx bs).cnt = s.cnt := rfl
@[simp] theorem State.appendRx_explen (bs : List Byte) : (s.appendRx bs).explen = s.explen := rfl
@[simp] theorem State.appendRx_buf (bs : List Byte) : (s.appendRx bs).buf = s.buf := rfl
@[simp] theorem State.appendRx_busy (bs : List Byte) : (s.appendRx bs).busy = s.busy := rfl
@[simp] theorem State.appendRx_maxAclLen (bs : List Byte) : (s.appendRx bs).maxAclLen = s.maxAclLen := rfl
@[simp] theorem State.appendRx_cfg (bs : List Byte) : (s.appendRx bs).cfg = s.cfg := rfl
@[simp] theorem State.appendRx_sink (bs : List Byte) : (s.appendRx bs).sink = s.sink := rfl
@[simp] theorem State.appendRx_rxq (bs : List Byte) : (s.appendRx bs).rxq = s.rxq ++ bs := rfl
@[simp] theorem State.appendRx_srcPlan (bs : List Byte) : (s.appendRx bs).srcPlan = s.srcPlan := rfl
@[simp] theorem State.appendRx_srcAns (bs : List Byte) : (s.appendRx bs).srcAns = s.srcAns := rfl
@[simp] theorem State.appendRx_freeIx (bs : List Byte) : (s.appendRx bs).freeIx = s.freeIx := rfl
@[simp] theorem State.appendRx_consumed (bs : List Byte) : (s.appendRx bs).consumed = s.consumed := rfl
@[simp] theorem State.appendRx_sinkPlan (bs : List Byte) : (s.appendRx bs).sinkPlan = s.sinkPlan := rfl
@[simp] theorem State.appendRx_dispatched (bs : List Byte) : (s.appendRx bs).dispatched = s.dispatched := rfl
@[simp] theorem State.appendRx_transmitted (bs : List Byte) : (s.appendRx bs).transmitted = s.transmitted := rfl
@[simp] theorem State.appendRx_agenda (bs : List Byte) : (s.appendRx bs).agenda = s.agenda := rfl

@[simp] theorem State.setAgenda_st (a : List Stimulus) : (s.setAgenda a).st = s.st := rfl
@[simp] theorem State.setAgenda_mkTag (a : List Stimulus) : (s.setAgenda a).mkTag = s.mkTag := rfl
@[simp] theorem State.setAgenda_cnt (a : List Stimulus) : (s.setAgenda a).cnt = s.cnt := rfl
@[simp] theorem State.setAgenda_explen (a : List Stimulus) : (s.setAgenda a).explen = s.explen := rfl
@[simp] theorem State.setAgenda_buf (a : List Stimulus) : (s.setAgenda a).buf = s.buf := rfl
@[simp] theorem State.setAgenda_busy (a : List Stimulus) : (s.setAgenda a).busy = s.busy := rfl
@[simp] theorem State.setAgenda_maxAclLen (a : List Stimulus) : (s.setAgenda a).maxAclLen = s.maxAclLen := rfl
@[simp] theorem State.setAgenda_cfg (a : List Stimulus) : (s.setAgenda a).cfg = s.cfg := rfl
@[simp] theorem State.setAgenda_sink (a : List Stimulus) : (s.setAgenda a).sink = s.sink := rfl
@[simp] theorem State.setAgenda_rxq (a : List Stimulus) : (s.setAgenda a).rxq = s.rxq := rfl
@[simp] theorem State.setAgenda_srcPlan (a : List Stimulus) : (s.setAgenda a).srcPlan = s.srcPlan := rfl
@[simp] theorem State.setAgenda_srcAns (a : List Stimulus) : (s.setAgenda a).srcAns = s.srcAns := rfl
@[simp] theorem State.setAgenda_freeIx (a : List Stimulus) : (s.setAgenda a).freeIx = s.freeIx := rfl
@[simp] theorem State.setAgenda_consumed (a : List Stimulus) : (s.setAgenda a).consumed = s.consumed := rfl
@[simp] theorem State.setAgenda_sinkPlan (a : List Stimulus) : (s.setAgenda a).sinkPlan = s.sinkPlan := rfl
@[simp] theorem State.setAgenda_dispatched (a : List Stimulus) : (s.setAgenda a).dispatched = s.dispatched := rfl
@[simp] theorem State.setAgenda_transmitted (a : List Stimulus) : (s.setAgenda a).transmitted = s.transmitted := rfl
@[simp] theorem State.setAgenda_agenda (a : List Stimulus) : (s.setAgenda a).agenda = a := rfl

@[simp] theorem State.withRxHead_st (bs : List Byte) : (s.withRxHead bs).st = s.st := rfl
@[simp] theorem State.withRxHead_mkTag (bs : List Byte) : (s.withRxHead bs).mkTag = s.mkTag := rfl
@[simp] theorem State.withRxHead_cnt (bs : List Byte) : (s.withRxHead bs).cnt = s.cnt := rfl
@[simp] theorem State.withRxHead_explen (bs : List Byte) : (s.withRxHead bs).explen = s.explen := rfl
@[simp] theorem State.withRxHead_buf (bs : List Byte) : (s.withRxHead bs).buf = s.buf := rfl
@[simp] theorem State.withRxHead_busy (bs : List Byte) : (s.withRxHead bs).busy = false := rfl
@[simp] theorem State.withRxHead_maxAclLen (bs : List Byte) : (s.withRxHead bs).maxAclLen = s.maxAclLen := rfl
@[simp] theorem State.withRxHead_cfg (bs : List Byte) : (s.withRxHead bs).cfg = s.cfg := rfl
@[simp] theorem State.withRxHead_sink (bs : List Byte) : (s.withRxHead bs).sink = s.sink := rfl
@[simp] theorem State.withRxHead_rxq (bs : List Byte) : (s.withRxHead bs).rxq = bs ++ s.rxq := rfl
@[simp] theorem State.withRxHead_srcPlan (bs : List Byte) :
    (s.withRxHead bs).srcPlan = { error := false, arrive := [] } :: s.srcPlan := rfl
@[simp] theorem State.withRxHead_srcAns (bs : List Byte) : (s.withRxHead bs).srcAns = s.srcAns := rfl
@[simp] theorem State.withRxHead_freeIx (bs : List Byte) : (s.withRxHead bs).freeIx = s.freeIx := rfl
@[simp] theorem State.withRxHead_consumed (bs : List Byte) : (s.withRxHead bs).consumed = s.consumed := rfl
@[simp] theorem State.withRxHead_sinkPlan (bs : List Byte) : (s.withRxHead bs).sinkPlan = s.sinkPlan := rfl
@[simp] theorem State.withRxHead_dispatched (bs : List Byte) : (s.withRxHead bs).dispatched = s.dispatched := rfl
@[simp] theorem State.withRxHead_transmitted (bs : List Byte) : (s.withRxHead bs).transmitted = s.transmitted := rfl
@[simp] theorem State.withRxHead_agenda (bs : List Byte) : (s.withRxHead bs).agenda = [] := rfl

/-! What the sink answers next, under the updates that do not ask it. -/

@[simp] theorem State.setCnt_sinkAnswer (n : U16) : (s.setCnt n).sinkAnswer = s.sinkAnswer := rfl
@[simp] theorem State.setCnt_sinkBlocks (n : U16) : (s.setCnt n).sinkBlocks = s.sinkBlocks := rfl
@[simp] theorem State.putByte_sinkAnswer (a : Nat) (b : Byte) : (s.putByte a b).sinkAnswer = s.sinkAnswer := rfl
@[simp] theorem State.putByte_sinkBlocks (a : Nat) (b : Byte) : (s.putByte a b).sinkBlocks = s.sinkBlocks := rfl
@[simp] theorem State.openPacket_sinkAnswer (t : PacketType) : (s.openPacket t).sinkAnswer = s.sinkAnswer := rfl
@[simp] theorem State.openPacket_sinkBlocks (t : PacketType) : (s.openPacket t).sinkBlocks = s.sinkBlocks := rfl
@[simp] theorem State.enterPayload_sinkAnswer (n h : U16) : (s.enterPayload n h).sinkAnswer = s.sinkAnswer := rfl
@[simp] theorem State.enterPayload_sinkBlocks (n h : U16) : (s.enterPayload n h).sinkBlocks = s.sinkBlocks := rfl
@[simp] theorem State.emptied_sinkAnswer : s.emptied.sinkAnswer = s.sinkAnswer := rfl
@[simp] theorem State.emptied_sinkBlocks : s.emptied.sinkBlocks = s.sinkBlocks := rfl
@[simp] theorem State.setMaxAclLen_sinkAnswer (v : U16) : (s.setMaxAclLen v).sinkAnswer = s.sinkAnswer := rfl
@[simp] theorem State.setMaxAclLen_sinkBlocks (v : U16) : (s.setMaxAclLen v).sinkBlocks = s.sinkBlocks := rfl
@[simp] theorem State.logFrame_sinkAnswer (f : List Byte) : (s.logFrame f).sinkAnswer = s.sinkAnswer := rfl
@[simp] theorem State.logFrame_sinkBlocks (f : List Byte) : (s.logFrame f).sinkBlocks = s.sinkBlocks := rfl
@[simp] theorem State.clearBusy_sinkAnswer : s.clearBusy.sinkAnswer = s.sinkAnswer := rfl
@[simp] theorem State.clearBusy_sinkBlocks : s.clearBusy.sinkBlocks = s.sinkBlocks := rfl
@[simp] theorem State.appendRx_sinkAnswer (l : List Byte) : (s.appendRx l).sinkAnswer = s.sinkAnswer := rfl
@[simp] theorem State.appendRx_sinkBlocks (l : List Byte) : (s.appendRx l).sinkBlocks = s.sinkBlocks := rfl
@[simp] theorem State.setAgenda_sinkAnswer (a : List Stimulus) : (s.setAgenda a).sinkAnswer = s.sinkAnswer := rfl
@[simp] theorem State.setAgenda_sinkBlocks (a : List Stimulus) : (s.setAgenda a).sinkBlocks = s.sinkBlocks := rfl

end Sys2Proof.Machine
end

