-- ==== Sys2Proof/Laws/Fields.lean ====
section
/-! SUPPORT. Bytes and 16-bit fields as numbers (spec/00_scope.md R9, spec/20_memory.md R43). -/

namespace Sys2Proof

theorem le16_toNat (a b : Byte) : (le16 a b).toNat = a.toNat + 256 * b.toNat := by
  simp [le16]; omega

theorem lowByte_toNat (v : U16) : (lowByte v).toNat = v.toNat % 256 := by simp [lowByte]

theorem highByte_toNat (v : U16) : (highByte v).toNat = v.toNat / 256 := by
  simp [highByte, Nat.shiftRight_eq_div_pow]; omega

@[simp] theorem le16_lowByte_highByte (v : U16) : le16 (lowByte v) (highByte v) = v := by
  apply BitVec.eq_of_toNat_eq
  rw [le16_toNat, lowByte_toNat, highByte_toNat]
  omega

@[simp] theorem lowByte_le16 (a b : Byte) : lowByte (le16 a b) = a := by
  apply BitVec.eq_of_toNat_eq
  rw [lowByte_toNat, le16_toNat]
  omega

@[simp] theorem highByte_le16 (a b : Byte) : highByte (le16 a b) = b := by
  apply BitVec.eq_of_toNat_eq
  rw [highByte_toNat, le16_toNat]
  omega

theorem aclWord_toNat (handle : BitVec 12) (pb bc : BitVec 2) :
    (aclWord handle pb bc).toNat = handle.toNat + 4096 * pb.toNat + 16384 * bc.toNat := by
  simp [aclWord]; omega

/-- Adding a length to a header size leaves it as it is only for an empty payload, as long as 16 bits hold the sum. -/
theorem add_len_eq_self {h len : U16} (hh : h.toNat + len.toNat < 65536) : h = h + len ↔ len.toNat = 0 := by
  rw [← BitVec.toNat_inj, BitVec.toNat_add]
  omega

end Sys2Proof
end

