-- ==== Sys2Proof/Laws/Memory.lean ====
section
/-! SUPPORT. What the operations on `BUF` do: the read-after-write laws, the canonical form, ranges. -/

namespace Sys2Proof.Machine

@[simp] theorem lookup_nil (a : Nat) : Memory.lookup [] a = none := rfl

theorem lookup_cons (c : Host.Cell) (r : Memory) (a : Nat) :
    Memory.lookup (c :: r) a = if a = c.1 then some c.2 else Memory.lookup r a := rfl

/-- A byte reads as it was last written. -/
@[simp] theorem lookup_write_same (m : Memory) (a : Nat) (b : Byte) : (m.write a b).lookup a = some b := by
  induction m with
  | nil => simp [Memory.write, lookup_cons]
  | cons c r ih =>
    unfold Memory.write
    split
    · simp [lookup_cons]
    · split
      · simp [lookup_cons]
      · rename_i h1 h2
        simp only [lookup_cons, h2, if_false]
        exact ih

/-- A write leaves every other byte alone. -/
theorem lookup_write_ne (m : Memory) {a a' : Nat} (b : Byte) (h : a' ≠ a) :
    (m.write a b).lookup a' = m.lookup a' := by
  induction m with
  | nil => simp [Memory.write, lookup_cons, h]
  | cons c r ih =>
    unfold Memory.write
    split
    · simp [lookup_cons, h]
    · split
      · rename_i h1 h2
        simp [lookup_cons, h, ← h2]
      · simp only [lookup_cons]
        rw [ih]

theorem lookup_write (m : Memory) (a a' : Nat) (b : Byte) :
    (m.write a b).lookup a' = if a' = a then some b else m.lookup a' := by
  by_cases h : a' = a
  · simp [h]
  · simp [h, lookup_write_ne]

/-- A write lists no index but the written one and those listed before. -/
theorem mem_write {m : Memory} {a : Nat} {b : Byte} {c : Host.Cell} (h : c ∈ m.write a b) : c.1 = a ∨ c ∈ m := by
  induction m with
  | nil =>
    simp only [Memory.write, List.mem_singleton] at h
    exact .inl (by rw [h])
  | cons d r ih =>
    unfold Memory.write at h
    split at h
    · rcases List.mem_cons.1 h with rfl | h
      · exact .inl rfl
      · exact .inr h
    · split at h
      · rcases List.mem_cons.1 h with rfl | h
        · exact .inl rfl
        · exact .inr (List.mem_cons_of_mem _ h)
      · rcases List.mem_cons.1 h with rfl | h
        · exact .inr List.mem_cons_self
        · exact (ih h).imp id (List.mem_cons_of_mem _)

/-- The canonical form says that the indices rise strictly. -/
theorem wf_cons (c : Host.Cell) (r : Memory) :
    Memory.wf (c :: r) = true ↔ (∀ d, r.head? = some d → c.1 < d.1) ∧ Memory.wf r = true := by
  cases r with
  | nil => simp [Memory.wf]
  | cons d r => simp [Memory.wf]

theorem head_write (m : Memory) (a : Nat) (b : Byte) {c : Host.Cell} (h : (m.write a b).head? = some c) :
    c.1 = a ∨ m.head? = some c := by
  cases m with
  | nil =>
    simp only [Memory.write, List.head?_cons, Option.some.injEq] at h
    exact .inl (by rw [← h])
  | cons d r =>
    unfold Memory.write at h
    split at h
    · exact .inl (by simp only [List.head?_cons, Option.some.injEq] at h; rw [← h])
    · split at h
      · exact .inl (by simp only [List.head?_cons, Option.some.injEq] at h; rw [← h])
      · exact .inr (by simpa using h)

/-- Every write keeps the canonical form. -/
theorem wf_write (m : Memory) (a : Nat) (b : Byte) (h : m.wf = true) : (m.write a b).wf = true := by
  induction m with
  | nil => rfl
  | cons c r ih =>
    have hc := (wf_cons c r).1 h
    unfold Memory.write
    split
    · rename_i hlt
      exact (wf_cons _ _).2 ⟨by simpa using hlt, h⟩
    · split
      · rename_i _ heq
        exact (wf_cons _ _).2 ⟨fun d hd => by simpa [heq] using hc.1 d hd, hc.2⟩
      · rename_i hnl hne
        refine (wf_cons _ _).2 ⟨fun d hd => ?_, ih hc.2⟩
        rcases head_write r a b hd with h' | h'
        · omega
        · exact hc.1 d h'

/-- The buffer of `State.reset` has the canonical form. -/
theorem wf_reset : State.reset.buf.wf = true := rfl

/-- A written byte reads as it was written, whatever stood there before. -/
theorem byte_of_lookup {m : Memory} {a : Nat} {b : Byte} (h : m.lookup a = some b) : m.byte a = b := by
  simp [Memory.byte, h]

/-- What reads alike byte by byte through `lookup` reads alike. -/
theorem byte_congr {m m' : Memory} {a : Nat} (h : m.lookup a = m'.lookup a) : m.byte a = m'.byte a := by
  simp [Memory.byte, h]

@[simp] theorem byte_write_same (m : Memory) (a : Nat) (b : Byte) : (m.write a b).byte a = b :=
  byte_of_lookup (lookup_write_same m a b)

theorem byte_write_ne (m : Memory) {a a' : Nat} (b : Byte) (h : a' ≠ a) : (m.write a b).byte a' = m.byte a' :=
  byte_congr (lookup_write_ne m b h)

theorem byte_write (m : Memory) (a a' : Nat) (b : Byte) :
    (m.write a b).byte a' = if a' = a then b else m.byte a' := by
  by_cases h : a' = a
  · simp [h]
  · simp [h, byte_write_ne]

@[simp] theorem readFrom_zero (m : Memory) (a : Nat) : m.readFrom a 0 = [] := rfl

theorem readFrom_succ (m : Memory) (a n : Nat) : m.readFrom a (n + 1) = m.byte a :: m.readFrom (a + 1) n := rfl

@[simp] theorem length_readFrom (m : Memory) (a n : Nat) : (m.readFrom a n).length = n := by
  induction n generalizing a with
  | zero => rfl
  | succ n ih => simp [readFrom_succ, ih]

/-- A range extended at its end. -/
theorem readFrom_snoc (m : Memory) (a n : Nat) : m.readFrom a (n + 1) = m.readFrom a n ++ [m.byte (a + n)] := by
  induction n generalizing a with
  | zero => rfl
  | succ n ih => rw [readFrom_succ, ih, readFrom_succ, List.cons_append, Nat.add_assoc, Nat.add_comm 1 n]

/-- A range depends on its own bytes only. -/
theorem readFrom_congr {m m' : Memory} {a n : Nat} (h : ∀ k, k < n → m.byte (a + k) = m'.byte (a + k)) :
    m.readFrom a n = m'.readFrom a n := by
  induction n with
  | zero => rfl
  | succ n ih => rw [readFrom_snoc, readFrom_snoc, ih fun k hk => h k (by omega), h n (by omega)]

/-- A byte stored behind a range leaves the range alone. -/
theorem readFrom_write {m : Memory} {n a : Nat} (b : Byte) (h : n ≤ a) : (m.write a b).readFrom 0 n = m.readFrom 0 n :=
  readFrom_congr fun k hk => byte_write_ne m b (by omega)

/-- Writing the next byte extends the range from index 0 by that byte. -/
theorem readFrom_write_snoc (m : Memory) (n : Nat) (b : Byte) :
    (m.write n b).readFrom 0 (n + 1) = m.readFrom 0 n ++ [b] := by
  rw [readFrom_snoc, readFrom_write b (Nat.le_refl n), Nat.zero_add, byte_write_same]

theorem written_write {m : Memory} {n a : Nat} {b : Byte} (h : m.Written n) : (m.write a b).Written n := by
  intro k hk
  rw [lookup_write]
  split
  · rfl
  · exact h k hk

theorem written_write_succ {m : Memory} {n : Nat} {b : Byte} (h : m.Written n) : (m.write n b).Written (n + 1) := by
  intro k hk
  rw [lookup_write]
  split
  · rfl
  · exact h k (by omega)

end Sys2Proof.Machine
end

