-- ==== Sys2Proof/Laws/Ops.lean ====
section
/-! SUPPORT. One lemma for each shared operation: if it answers a next state, everything it can have done. -/

namespace Sys2Proof.Machine

/-! ## Composition and checks -/

@[simp] theorem chain_next_left (s : State) (f : State → Result) : chain (.next s) f = f s := rfl

@[simp] theorem chain_fault_left (r : Fault) (f : State → Result) : chain (.fault r) f = .fault r := rfl

@[simp] theorem chain_refused_left (r : Refusal) (f : State → Result) : chain (.refused r) f = .refused r := rfl

theorem chain_next {o : Result} {f : State → Result} {t : State} :
    chain o f = .next t ↔ ∃ u, o = .next u ∧ f u = .next t := by
  cases o <;> simp [chain]

theorem chain_fault {o : Result} {f : State → Result} {r : Fault} :
    chain o f = .fault r ↔ o = .fault r ∨ ∃ u, o = .next u ∧ f u = .fault r := by
  cases o <;> simp [chain]

theorem chain_assoc (o : Result) (f g : State → Result) : chain (chain o f) g = chain o fun s => chain (f s) g := by
  cases o <;> rfl

theorem ready_iff {s : State} : s.notReady = none ↔ s.Ready := by
  unfold State.notReady
  constructor
  · intro h
    split at h
    · cases h
    · split at h
      · cases h
      · split at h
        · cases h
        · exact ⟨by simp_all, by simp_all, by simp_all⟩
  · rintro ⟨h1, h2, h3⟩
    simp [h1, h2, h3]

theorem whenReady_next {s t : State} {r : Result} : whenReady s r = .next t ↔ s.Ready ∧ r = .next t := by
  unfold whenReady
  cases h : s.notReady with
  | none => simp [ready_iff.1 h]
  | some e =>
    simp only [reduceCtorEq, false_iff, not_and]
    intro hr
    rw [ready_iff.2 hr] at h
    cases h

@[simp] theorem whenReady_of_ready {s : State} (h : s.Ready) (r : Result) : whenReady s r = r := by
  unfold whenReady
  rw [ready_iff.2 h]

theorem whenReady_refused {s : State} {e : Refusal} (h : s.notReady = some e) (r : Result) :
    whenReady s r = .refused e := by
  unfold whenReady
  rw [h]

theorem whenSelected_next {s t : State} {b : Byte} {op : StepOp} {r : Result} :
    whenSelected s b op r = .next t ↔ s.Ready ∧ select s b = some op ∧ r = .next t := by
  unfold whenSelected
  rw [whenReady_next]
  by_cases h : select s b = some op <;> simp [h]

theorem whenCompleting_next {s t : State} {r : Result} :
    whenCompleting s r = .next t ↔ s.Ready ∧ completing s = true ∧ r = .next t := by
  unfold whenCompleting
  rw [whenReady_next]
  by_cases h : completing s = true <;> simp [h]

theorem notIdle_iff {s : State} : s.notIdle = none ↔ s.configOk = true ∧ s.busy = false := by
  unfold State.notIdle
  cases s.configOk <;> cases s.busy <;> simp

theorem whenIdle_next {s t : State} {r : Result} :
    whenIdle s r = .next t ↔ s.configOk = true ∧ s.busy = false ∧ r = .next t := by
  rw [← and_assoc, ← notIdle_iff]
  unfold whenIdle
  cases s.notIdle <;> simp

theorem whenIdle_of_idle {s : State} (hc : s.configOk = true) (hb : s.busy = false) (r : Result) : whenIdle s r = r := by
  unfold whenIdle
  rw [notIdle_iff.2 ⟨hc, hb⟩]

theorem notIdle_illegal {s : State} (hc : s.configOk = false) : s.notIdle = some .invalidConfig := by
  unfold State.notIdle
  cases h : s.configOk
  · rfl
  · rw [h] at hc; cases hc

theorem whenIdle_illegal {s : State} (hc : s.configOk = false) (r : Result) :
    whenIdle s r = .refused .invalidConfig := by
  have hn := notIdle_illegal hc
  unfold whenIdle
  rw [hn]

/-- What a legal configuration says (R7). -/
theorem configOk_iff {s : State} :
    s.configOk = true ↔
      encoderConfigOk s.cfg = true ∧ 258 ≤ s.cfg.bufCap ∧ s.cfg.bufCap ≤ 65535 ∧
        4 + s.maxAclLen.toNat ≤ s.cfg.bufCap := by
  simp only [State.configOk, staticConfigOk, Bool.and_eq_true, decide_eq_true_eq, and_assoc]

theorem markersDistinct_of_encoderConfigOk {c : Config} (h : encoderConfigOk c = true) : markersDistinct c = true := by
  simp only [encoderConfigOk, Bool.and_eq_true] at h
  exact h.1

theorem staticConfigOk_of_configOk {s : State} (h : s.configOk = true) : staticConfigOk s.cfg = true := by
  simp only [State.configOk, Bool.and_eq_true] at h
  exact h.1

theorem State.Ready.encoderConfigOk {s : State} (h : s.Ready) : encoderConfigOk s.cfg = true := (configOk_iff.1 h.config).1

theorem State.Ready.limits {s : State} (h : s.Ready) :
    markersDistinct s.cfg = true ∧ 258 ≤ s.cfg.bufCap ∧ s.cfg.bufCap ≤ 65535 ∧
      4 + s.maxAclLen.toNat ≤ s.cfg.bufCap := by
  obtain ⟨h1, h2⟩ := configOk_iff.1 h.config
  exact ⟨markersDistinct_of_encoderConfigOk h1, h2⟩

/-! ## The packet buffer and the registers -/

theorem storeByte_next {s t : State} {a : Nat} {b : Byte} :
    storeByte s a b = .next t ↔ a < s.cfg.bufCap ∧ t = s.putByte a b := by
  unfold storeByte
  split <;> simp_all [eq_comm]

theorem storeByte_of_lt {s : State} {a : Nat} {b : Byte} (h : a < s.cfg.bufCap) :
    storeByte s a b = .next (s.putByte a b) := storeByte_next.2 ⟨h, rfl⟩

@[simp] theorem resyncOp_eq (c : ResyncCause) (s : State) : resyncOp c s = s.emptied := rfl

theorem empty_emptied (s : State) : s.emptied.Empty := ⟨rfl, rfl, rfl, rfl⟩

/-- Emptying a state that is already empty changes nothing. -/
theorem State.Empty.emptied_eq {s : State} (h : s.Empty) : s.emptied = s := by
  obtain ⟨h1, h2, h3, h4⟩ := h
  cases s
  simp_all [State.emptied]

/-! ## The outputs -/

/-- The packet a `Dispatch` hands over (R126). -/
def packetOf (s : State) (t : PacketType) (n : U16) : Packet :=
  { ptype := t, bytes := s.buf.readFrom 0 n.toNat, length := n }

theorem emitDispatch_next {s u : State} :
    emitDispatch s = .next u ↔
      ∃ t h n, s.mkTag = some t ∧ headerSize t = some h ∧ s.explen = some n ∧ n.toNat ≤ s.cfg.bufCap ∧
        u = s.logDispatch (packetOf s t n) := by
  constructor
  · intro hd
    unfold emitDispatch at hd
    split at hd
    · rename_i t n ht hn
      split at hd
      · cases hd
      · rename_i hs
        split at hd
        · cases hd
        · rename_i hc
          cases hd
          cases hh : headerSize t with
          | none => simp [hh] at hs
          | some k => exact ⟨t, k, n, ht, hh, hn, by omega, rfl⟩
    · cases hd
  · rintro ⟨t, h, n, h1, h2, h3, h4, rfl⟩
    have : ¬ s.cfg.bufCap < n.toNat := by omega
    simp [emitDispatch, h1, h2, h3, this, packetOf]

theorem emitDispatch_eq {s : State} {t : PacketType} {h : Nat} {n : U16} (h1 : s.mkTag = some t)
    (h2 : headerSize t = some h) (h3 : s.explen = some n) (h4 : n.toNat ≤ s.cfg.bufCap) :
    emitDispatch s = .next (s.logDispatch (packetOf s t n)) := emitDispatch_next.2 ⟨t, h, n, h1, h2, h3, h4, rfl⟩

theorem sinkBlocks_iff {s : State} : s.sinkBlocks = true ↔ s.sinkAnswer = .never := by
  unfold State.sinkBlocks
  cases s.sinkAnswer <;> simp

theorem State.SinkReturns.sinkBlocks {s : State} (h : s.SinkReturns) : s.sinkBlocks = false :=
  Bool.eq_false_iff.2 fun hb => h (sinkBlocks_iff.1 hb)

/-- The same for the completion: the sink's answer decides whether the decoder leaves the emit. -/
theorem completeOp_eq {s : State} {t : PacketType} {h : Nat} {n : U16} (h1 : s.mkTag = some t)
    (h2 : headerSize t = some h) (h3 : s.explen = some n) (h4 : n.toNat ≤ s.cfg.bufCap) :
    completeOp s =
      .next (if s.sinkBlocks = true then s.logDispatch (packetOf s t n)
        else (s.logDispatch (packetOf s t n)).emptied) := by
  rw [completeOp, emitDispatch_eq h1 h2 h3 h4]
  rfl

theorem completeOp_next {s t : State} :
    completeOp s = .next t ↔
      ∃ u, emitDispatch s = .next u ∧ t = if u.busy = true then u else u.emptied := by
  unfold completeOp
  rw [chain_next]
  constructor
  · rintro ⟨u, h1, h2⟩
    exact ⟨u, h1, by cases h2; rfl⟩
  · rintro ⟨u, h1, rfl⟩
    exact ⟨u, h1, rfl⟩

theorem encodeFrame_next {s t : State} {q : PacketType} {bytes : List Byte} :
    encodeFrame q bytes s = .next t ↔
      encoderConfigOk s.cfg = true ∧
        t = if fitsTx s.cfg (bytes.length + 1) = true then s.logFrame (frame s.cfg q bytes) else s := by
  unfold encodeFrame
  by_cases h : encoderConfigOk s.cfg = true
  · by_cases h2 : fitsTx s.cfg (bytes.length + 1) = true <;> simp [h, h2, eq_comm]
  · simp [h]

/-! ## The byte source -/

/-- The three answers of R120. -/
theorem srcGetOp_cases (s : State) :
    (s.srcTurn.error = true ∧ srcGetOp s = s.answerNone .error (s.rxq ++ s.srcTurn.arrive)) ∨
    (s.srcTurn.error = false ∧ s.rxq = [] ∧ srcGetOp s = s.answerNone .noData s.srcTurn.arrive) ∨
    (∃ h r, s.srcTurn.error = false ∧ s.rxq = h :: r ∧
      srcGetOp s = s.answerByte h r.length (r ++ s.srcTurn.arrive)) := by
  unfold srcGetOp
  cases he : s.srcTurn.error with
  | true => simp
  | false =>
    cases hq : s.rxq with
    | nil => simp
    | cons h r => simp

/-- A `SrcGet` touches the source's side of the state only. -/
theorem srcGetOp_frame (s : State) :
    srcGetOp s =
      { s with
        rxq := (srcGetOp s).rxq, srcPlan := s.srcPlan.tail, srcAns := (srcGetOp s).srcAns,
        freeIx := s.freeIx + 1, consumed := (srcGetOp s).consumed } := by
  rcases srcGetOp_cases s with ⟨_, h⟩ | ⟨_, _, h⟩ | ⟨_, _, _, _, h⟩ <;> rw [h] <;> rfl

@[simp] theorem srcGetOp_st (s : State) : (srcGetOp s).st = s.st := by rw [srcGetOp_frame]
@[simp] theorem srcGetOp_mkTag (s : State) : (srcGetOp s).mkTag = s.mkTag := by rw [srcGetOp_frame]
@[simp] theorem srcGetOp_cnt (s : State) : (srcGetOp s).cnt = s.cnt := by rw [srcGetOp_frame]
@[simp] theorem srcGetOp_explen (s : State) : (srcGetOp s).explen = s.explen := by rw [srcGetOp_frame]
@[simp] theorem srcGetOp_buf (s : State) : (srcGetOp s).buf = s.buf := by rw [srcGetOp_frame]
@[simp] theorem srcGetOp_busy (s : State) : (srcGetOp s).busy = s.busy := by rw [srcGetOp_frame]
@[simp] theorem srcGetOp_maxAclLen (s : State) : (srcGetOp s).maxAclLen = s.maxAclLen := by rw [srcGetOp_frame]
@[simp] theorem srcGetOp_cfg (s : State) : (srcGetOp s).cfg = s.cfg := by rw [srcGetOp_frame]
@[simp] theorem srcGetOp_sink (s : State) : (srcGetOp s).sink = s.sink := by rw [srcGetOp_frame]
@[simp] theorem srcGetOp_srcPlan (s : State) : (srcGetOp s).srcPlan = s.srcPlan.tail := by rw [srcGetOp_frame]
@[simp] theorem srcGetOp_sinkPlan (s : State) : (srcGetOp s).sinkPlan = s.sinkPlan := by rw [srcGetOp_frame]
@[simp] theorem srcGetOp_dispatched (s : State) : (srcGetOp s).dispatched = s.dispatched := by rw [srcGetOp_frame]
@[simp] theorem srcGetOp_transmitted (s : State) : (srcGetOp s).transmitted = s.transmitted := by rw [srcGetOp_frame]
@[simp] theorem srcGetOp_agenda (s : State) : (srcGetOp s).agenda = s.agenda := by rw [srcGetOp_frame]

/-- The range R120 gives `remaining` holds the count exactly. -/
theorem remainingOf_toNat {ix n : Nat} (h : n < 65536) : (remainingOf ix n).toNat = n := by
  simp [remainingOf, h]

/-- `n = 0` in the loop of R122 is seen only when nothing is left buffered, as long as the count fits. -/
theorem remainingOf_eq_zero {ix n : Nat} (h : n < 65536) : remainingOf ix n = 0 ↔ n = 0 := by
  rw [← BitVec.toNat_inj, remainingOf_toNat h]
  simp

/-! ## The byte step -/

theorem consumeByte_next {b : Byte} {s t : State} :
    consumeByte b s = .next t ↔ s.Ready ∧ ∃ op, select s b = some op ∧ runOp op b s = .next t := by
  unfold consumeByte
  rw [whenReady_next]
  cases h : select s b with
  | none => simp
  | some op => simp

theorem acceptHeader_next {h len : U16} {s t : State} :
    acceptHeader h len s = .next t ↔
      if h = h + len then completeOp (s.enterPayload (h + len) h) = .next t
      else t = s.enterPayload (h + len) h := by
  unfold acceptHeader
  split <;> simp [eq_comm]

/-- `TYPE(b)` is the partial inverse of `MARKER` (R61). -/
theorem marker_of_typeOf {c : Config} {b : Byte} {q : PacketType} (h : typeOf c b = some q) : marker c q = b := by
  unfold typeOf at h
  split at h
  · cases h; simp_all [marker]
  · split at h
    · cases h; simp_all [marker]
    · split at h
      · cases h; simp_all [marker]
      · split at h
        · cases h; simp_all [marker]
        · cases h

theorem typeOf_marker {c : Config} (h : markersDistinct c = true) (q : PacketType) : typeOf c (marker c q) = some q := by
  simp only [markersDistinct, Bool.and_eq_true, decide_eq_true_eq] at h
  obtain ⟨⟨⟨⟨⟨h1, h2⟩, h3⟩, h4⟩, h5⟩, h6⟩ := h
  cases q <;> simp [marker, typeOf, h6, Ne.symm h1, Ne.symm h2, Ne.symm h3, Ne.symm h4, Ne.symm h5]

@[simp] theorem feed_nil (s : State) : feed [] s = .next s := rfl

@[simp] theorem feed_cons (b : Byte) (r : List Byte) (s : State) : feed (b :: r) s = chain (consumeByte b s) (feed r) := rfl

/-- Feeding two pieces one after the other is feeding them joined. -/
theorem feed_append (x y : List Byte) (s : State) : feed (x ++ y) s = chain (feed x s) (feed y) := by
  induction x generalizing s with
  | nil => rfl
  | cons b r ih =>
    simp only [List.cons_append, feed_cons, chain_assoc]
    congr 1
    funext u
    exact ih u

end Sys2Proof.Machine
end

