-- ==== Sys2Proof/Laws/Byte.lean ====
section
/-! SUPPORT. What a byte step can touch: it neither reads nor writes the byte source's side, the transmit stream or the
pending events, so it commutes with any change of them. -/

namespace Sys2Proof.Machine

/-- `s` with the fields no byte step touches taken from `e`. -/
def State.withEnv (s e : State) : State :=
  { s with
    rxq := e.rxq, srcPlan := e.srcPlan, srcAns := e.srcAns, freeIx := e.freeIx, consumed := e.consumed,
    transmitted := e.transmitted, agenda := e.agenda }

/-- Apply `f` to the next state of an outcome. -/
def mapNext (f : State → State) (o : Result) : Result := chain o fun s => .next (f s)

@[simp] theorem mapNext_next (f : State → State) (s : State) : mapNext f (.next s) = .next (f s) := rfl
@[simp] theorem mapNext_fault (f : State → State) (r : Fault) : mapNext f (.fault r) = .fault r := rfl
@[simp] theorem mapNext_refused (f : State → State) (r : Refusal) : mapNext f (.refused r) = .refused r := rfl

theorem chain_mapNext (f : State → State) (o : Result) {g g' : State → Result} (h : ∀ s, g' (f s) = mapNext f (g s)) :
    chain (mapNext f o) g' = mapNext f (chain o g) := by
  cases o <;> simp [chain, mapNext, h]

variable (e : State)

theorem storeByte_withEnv (s : State) (a : Nat) (b : Byte) :
    storeByte (s.withEnv e) a b = mapNext (·.withEnv e) (storeByte s a b) := by
  unfold storeByte
  split
  · rename_i h
    rw [if_pos (show a < s.cfg.bufCap from h)]
    rfl
  · rename_i h
    rw [if_neg (show ¬ a < s.cfg.bufCap from h)]
    rfl

theorem emitDispatch_withEnv (s : State) :
    emitDispatch (s.withEnv e) = mapNext (·.withEnv e) (emitDispatch s) := by
  obtain ⟨st, mk, cnt, explen, buf, busy, mx, cfg, sink, rxq, sp, sa, fi, co, skp, di, tr, ag⟩ := s
  cases mk with
  | none => rfl
  | some t =>
    cases explen with
    | none => rfl
    | some n =>
      cases hh : headerSize t with
      | none => simp [emitDispatch, State.withEnv, hh]
      | some h =>
        by_cases hc : cfg.bufCap < n.toNat
        · simp [emitDispatch, State.withEnv, hh, hc]
        · simp [emitDispatch, State.withEnv, hh, hc, State.logDispatch, State.sinkBlocks, State.sinkAnswer]

theorem completeOp_withEnv (s : State) : completeOp (s.withEnv e) = mapNext (·.withEnv e) (completeOp s) := by
  unfold completeOp
  rw [emitDispatch_withEnv]
  refine chain_mapNext _ _ fun u => ?_
  cases h : u.busy <;> simp [State.withEnv, h, State.emptied]

theorem acceptHeader_withEnv (h len : U16) (s : State) :
    acceptHeader h len (s.withEnv e) = mapNext (·.withEnv e) (acceptHeader h len s) := by
  unfold acceptHeader
  split
  · exact completeOp_withEnv e (s.enterPayload (h + len) h)
  · rfl

theorem runOp_withEnv (op : StepOp) (b : Byte) (s : State) :
    runOp op b (s.withEnv e) = mapNext (·.withEnv e) (runOp op b s) := by
  cases op
  case hdrAcc =>
    simp only [runOp, opHdrAcc]
    rw [show (s.withEnv e).cnt = s.cnt from rfl, storeByte_withEnv]
    exact chain_mapNext _ _ fun u => rfl
  case hdrEndCmd =>
    simp only [runOp, opHdrEndCmd]
    rw [storeByte_withEnv]
    exact chain_mapNext _ _ fun u => acceptHeader_withEnv e 3 (lenCommand u.buf) (u.setCnt 4)
  case hdrEndEvt =>
    simp only [runOp, opHdrEndEvt]
    rw [storeByte_withEnv]
    exact chain_mapNext _ _ fun u => acceptHeader_withEnv e 2 (lenEvent u.buf) (u.setCnt 3)
  case hdrEndAcl =>
    simp only [runOp, opHdrEndAcl]
    rw [storeByte_withEnv]
    refine chain_mapNext _ _ fun u => ?_
    simp only [show (u.withEnv e).maxAclLen = u.maxAclLen from rfl, show (u.withEnv e).buf = u.buf from rfl]
    split
    · rfl
    · exact acceptHeader_withEnv e 4 (lenAcl u.buf) (u.setCnt 5)
  case payAcc =>
    simp only [runOp, opPayAcc]
    rw [show (s.withEnv e).cnt = s.cnt from rfl, storeByte_withEnv]
    exact chain_mapNext _ _ fun u => rfl
  case payEnd =>
    simp only [runOp, opPayEnd]
    rw [show (s.withEnv e).cnt = s.cnt from rfl, storeByte_withEnv]
    exact chain_mapNext _ _ fun u => completeOp_withEnv e (u.setCnt (u.cnt + 1))
  all_goals rfl

/-- A byte step commutes with any change of the fields it does not touch. -/
theorem consumeByte_withEnv (b : Byte) (s : State) :
    consumeByte b (s.withEnv e) = mapNext (·.withEnv e) (consumeByte b s) := by
  unfold consumeByte whenReady
  rw [show (s.withEnv e).notReady = s.notReady from rfl, show select (s.withEnv e) b = select s b from rfl]
  cases s.notReady with
  | some r => rfl
  | none =>
    cases select s b with
    | none => rfl
    | some op => exact runOp_withEnv e op b s

/-- So does feeding any number of bytes. -/
theorem feed_withEnv (l : List Byte) (s : State) : feed l (s.withEnv e) = mapNext (·.withEnv e) (feed l s) := by
  induction l generalizing s with
  | nil => rfl
  | cons b r ih =>
    simp only [feed_cons]
    rw [consumeByte_withEnv]
    exact chain_mapNext _ _ fun u => ih u

end Sys2Proof.Machine
end

