-- ==== Sys2Proof/Laws/Frame.lean ====
section
/-! SUPPORT. What a byte step, a row of the marker table, an encode operation and a step of the machine at rest can do,
from any state, said once. -/

namespace Sys2Proof.Machine

/-- `t` differs from `s` at most in the decoder's registers, `BUF`, the sink's side and what joined the dispatch
stream. -/
def OnlyDecoder (s t : State) : Prop :=
  t = { s with
        st := t.st, mkTag := t.mkTag, cnt := t.cnt, explen := t.explen, buf := t.buf, busy := t.busy,
        dispatched := t.dispatched, sinkPlan := t.sinkPlan } ∧
    ∃ ps, t.dispatched = s.dispatched ++ ps

theorem OnlyDecoder.refl (s : State) : OnlyDecoder s s := ⟨rfl, [], by simp⟩

theorem OnlyDecoder.trans {s u v : State} (h1 : OnlyDecoder s u) (h2 : OnlyDecoder u v) : OnlyDecoder s v := by
  obtain ⟨f1, ps, p1⟩ := h1
  obtain ⟨f2, qs, p2⟩ := h2
  refine ⟨?_, ps ++ qs, by rw [p2, p1, List.append_assoc]⟩
  rw [f2, f1]

/-- The decoder stays ready unless a `Dispatch` is outstanding. -/
theorem OnlyDecoder.ready {s u : State} (h : OnlyDecoder s u) (hr : s.Ready) (hb : u.busy = false) : u.Ready := by
  have hf := h.1
  exact ⟨by rw [hf]; exact hr.config, by rw [hf]; exact hr.sink, hb⟩

/-- The sink's part: not asked, or asked once. -/
def AsksSinkOnce (s t : State) : Prop :=
  (t.sinkPlan = s.sinkPlan ∧ t.busy = s.busy) ∨ (t.sinkPlan = s.sinkPlan.tail ∧ t.busy = s.sinkBlocks)

theorem completeOp_frame {s t : State} (h : completeOp s = .next t) :
    OnlyDecoder s t ∧ t.sinkPlan = s.sinkPlan.tail ∧ t.busy = s.sinkBlocks ∧ (t.st = .awaitingMarker ∨ t.st = s.st) := by
  obtain ⟨u, hu, rfl⟩ := completeOp_next.1 h
  obtain ⟨t, _, n, _, _, _, _, rfl⟩ := emitDispatch_next.1 hu
  split
  · exact ⟨⟨rfl, [packetOf s t n], rfl⟩, rfl, rfl, .inr rfl⟩
  · exact ⟨⟨rfl, [packetOf s t n], rfl⟩, rfl, rfl, .inl rfl⟩

theorem acceptHeader_frame {h len : U16} {s t : State} (hs : acceptHeader h len s = .next t) :
    OnlyDecoder s t ∧ AsksSinkOnce s t := by
  rw [acceptHeader_next] at hs
  split at hs
  · obtain ⟨h1, h2, h3, _⟩ := completeOp_frame hs
    exact ⟨OnlyDecoder.trans (u := s.enterPayload (h + len) h) ⟨rfl, [], by simp⟩ h1, .inr ⟨h2, h3⟩⟩
  · subst hs
    exact ⟨⟨rfl, [], by simp⟩, .inl ⟨rfl, rfl⟩⟩

theorem runOp_frame {op : StepOp} {b : Byte} {s t : State} (h : runOp op b s = .next t) :
    OnlyDecoder s t ∧ AsksSinkOnce s t := by
  have hput : ∀ (s : State) (a : Nat) (n : U16), OnlyDecoder s ((s.putByte a b).setCnt n) :=
    fun s a n => ⟨rfl, [], by simp⟩
  have haccept : ∀ {a : Nat} {n k len : U16}, acceptHeader k len ((s.putByte a b).setCnt n) = .next t →
      OnlyDecoder s t ∧ AsksSinkOnce s t := fun hx => by
    obtain ⟨h1, h2⟩ := acceptHeader_frame hx
    exact ⟨(hput _ _ _).trans h1, h2⟩
  cases op
  case drop => cases h; exact ⟨.refl _, .inl ⟨rfl, rfl⟩⟩
  case markSync => cases h; exact ⟨.refl _, .inl ⟨rfl, rfl⟩⟩
  case markCmd => cases h; exact ⟨⟨rfl, [], by simp⟩, .inl ⟨rfl, rfl⟩⟩
  case markAcl => cases h; exact ⟨⟨rfl, [], by simp⟩, .inl ⟨rfl, rfl⟩⟩
  case markEvt => cases h; exact ⟨⟨rfl, [], by simp⟩, .inl ⟨rfl, rfl⟩⟩
  case hdrRejSync => cases h; exact ⟨⟨rfl, [], by simp⟩, .inl ⟨rfl, rfl⟩⟩
  case hdrAcc =>
    simp only [runOp, opHdrAcc, chain_next, storeByte_next] at h
    obtain ⟨_, ⟨_, rfl⟩, h⟩ := h
    cases h
    exact ⟨hput _ _ _, .inl ⟨rfl, rfl⟩⟩
  case payAcc =>
    simp only [runOp, opPayAcc, chain_next, storeByte_next] at h
    obtain ⟨_, ⟨_, rfl⟩, h⟩ := h
    cases h
    exact ⟨hput _ _ _, .inl ⟨rfl, rfl⟩⟩
  case payEnd =>
    simp only [runOp, opPayEnd, chain_next, storeByte_next] at h
    obtain ⟨_, ⟨_, rfl⟩, h⟩ := h
    obtain ⟨h1, h2, h3, _⟩ := completeOp_frame h
    exact ⟨(hput _ _ _).trans h1, .inr ⟨h2, h3⟩⟩
  case hdrEndCmd =>
    simp only [runOp, opHdrEndCmd, chain_next, storeByte_next] at h
    obtain ⟨_, ⟨_, rfl⟩, h⟩ := h
    exact haccept h
  case hdrEndEvt =>
    simp only [runOp, opHdrEndEvt, chain_next, storeByte_next] at h
    obtain ⟨_, ⟨_, rfl⟩, h⟩ := h
    exact haccept h
  case hdrEndAcl =>
    simp only [runOp, opHdrEndAcl, chain_next, storeByte_next] at h
    obtain ⟨_, ⟨_, rfl⟩, h⟩ := h
    split at h
    · cases h; exact ⟨⟨rfl, [], by simp⟩, .inl ⟨rfl, rfl⟩⟩
    · exact haccept h

theorem consumeByte_frame {b : Byte} {s t : State} (h : consumeByte b s = .next t) :
    OnlyDecoder s t ∧ AsksSinkOnce s t := by
  obtain ⟨_, _, _, h⟩ := consumeByte_next.1 h
  exact runOp_frame h

/-- With a sink that always returns, a byte step leaves the decoder ready. -/
theorem consumeByte_returns {b : Byte} {s t : State} (hr : s.Ready) (ha : s.SinkAlwaysReturns)
    (h : consumeByte b s = .next t) : t.Ready ∧ t.SinkAlwaysReturns := by
  obtain ⟨h1, h2 | h2⟩ := consumeByte_frame h
  · exact ⟨h1.ready hr (by rw [h2.2]; exact hr.idle), by unfold State.SinkAlwaysReturns; rw [h2.1]; exact ha⟩
  · refine ⟨h1.ready hr ?_, ?_⟩
    · rw [h2.2]
      refine State.SinkReturns.sinkBlocks ?_
      unfold State.SinkReturns State.sinkAnswer
      cases hp : s.sinkPlan with
      | nil => simp
      | cons x r => simpa using ha x (by simp [hp])
    · unfold State.SinkAlwaysReturns
      rw [h2.1]
      exact fun a hm => ha a (List.mem_of_mem_tail hm)

/-- The instruction a byte decodes to consumes that byte (R79, R80). -/
theorem exec_row {c : Config} {b : Byte} {i : Instr} {rest : List Byte} {s : State} (hc : s.cfg = c)
    (h : decode c [b] = .ok (i, rest)) : exec i s = consumeByte b s := by
  subst hc
  simp only [decode] at h
  split at h
  · split at h <;> rename_i ht <;> cases h <;>
      simp only [exec, execHciCmd, execHciAcl, execHciSync, execHciEvt, execNotAMarker]
    · rw [marker_of_typeOf ht]
    · rw [marker_of_typeOf ht]
    · rw [marker_of_typeOf ht]
    · rw [marker_of_typeOf ht]
    · rw [ht]; rfl
  · cases h

theorem decode_ok {c : Config} (h : markersDistinct c = true) (b : Byte) : ∃ i, decode c [b] = .ok (i, []) := by
  simp only [decode, h, if_true]
  split <;> exact ⟨_, rfl⟩

/-- An encode operation emits one frame or nothing. -/
theorem encoder_frame {i : Instr} {s t : State} (he : isEncoder i = true) (h : exec i s = .next t) :
    t = s ∨ ∃ f, t = s.logFrame f := by
  cases i <;> cases he
  case txFrame b =>
    simp only [exec, execTxFrame] at h
    split at h
    · cases h
    · split at h
      · cases h; exact .inr ⟨_, rfl⟩
      · cases h
  all_goals
    simp only [exec, execEncFrame, execEncCmd, execEncAcl, execEncEvt, encodeFrame_next] at h
    obtain ⟨_, rfl⟩ := h
    split
    · exact .inr ⟨_, rfl⟩
    · exact .inl rfl

/-- The machine with nothing pending and bytes to consume fetches one and runs what it selects. -/
theorem step_stream {s : State} (ha : s.agenda = []) (hb : s.busy = false) (hq : s.rxq ≠ []) :
    step s = chain (execSrcGet s) runFetched := by
  have hs : step s = runStream s := by rw [step, ha]
  rw [hs, runStream, hb, if_neg (by simp), if_neg hq]

/-- Under a legal configuration that is one `SrcGet`, and the byte it hands over. -/
theorem step_idle {s : State} (ha : s.agenda = []) (hb : s.busy = false) (hq : s.rxq ≠ []) (hc : s.configOk = true) :
    step s =
      if (srcGetOp s).srcAns.status = .ok then consumeByte (srcGetOp s).srcAns.byte (srcGetOp s)
      else .next (srcGetOp s) := by
  have hd := markersDistinct_of_encoderConfigOk (configOk_iff.1 hc).1
  rw [← srcGetOp_cfg s] at hd
  obtain ⟨i, hi⟩ := decode_ok hd (srcGetOp s).srcAns.byte
  rw [step_stream ha hb hq, execSrcGet, whenIdle_of_idle hc hb, chain_next_left, runFetched, fetched]
  by_cases hok : (srcGetOp s).srcAns.status = .ok
  · rw [if_pos hok, if_pos hok, hi]
    exact exec_row rfl hi
  · rw [if_neg hok, if_neg hok]

/-- Under an illegal configuration no byte is consumed (R7). -/
theorem step_illegal {s : State} (ha : s.agenda = []) (hb : s.busy = false) (hq : s.rxq ≠ [])
    (hc : s.configOk = false) : step s = .refused .invalidConfig := by
  rw [step_stream ha hb hq, execSrcGet, whenIdle_illegal hc, chain_refused_left]

end Sys2Proof.Machine
end

