-- ==== Sys2Proof/Laws/Invariant.lean ====
section
/-! SUPPORT. The pieces of the state invariant (spec/10_state.md R26) that the byte operations need. -/

namespace Sys2Proof.Machine

/-- The invariant reads nothing but the registers, `BUF`, `busy` and the configuration. -/
theorem State.Inv.congr {s u : State} (h : s.Inv) (h1 : u.st = s.st) (h2 : u.mkTag = s.mkTag) (h3 : u.cnt = s.cnt)
    (h4 : u.explen = s.explen) (h5 : u.buf = s.buf) (h6 : u.busy = s.busy) (h7 : u.cfg = s.cfg)
    (h8 : u.configOk = true) : u.Inv := by
  have hr := h.row
  refine ⟨h8, by rw [h5]; exact h.wf, by rw [h5, h7]; exact h.bounded, ?_⟩
  unfold State.Row at hr ⊢
  rw [h1]
  cases hst : s.st with
  | awaitingMarker =>
    rw [hst] at hr
    obtain ⟨x, hb⟩ := hr
    exact ⟨⟨h1.trans hst, h2.trans x.packet, h3.trans x.cnt, h4.trans x.explen⟩, h6.trans hb⟩
  | accumulatingHeader =>
    rw [hst] at hr
    obtain ⟨t, h, x⟩ := hr
    exact ⟨t, h, h2.trans x.packet, x.size, by rw [h3]; exact x.low, by rw [h3]; exact x.high, h4.trans x.explen,
      by rw [h5, h3]; exact x.written, h6.trans x.idle⟩
  | accumulatingPayload =>
    rw [hst] at hr
    obtain ⟨t, h, n, len, x⟩ := hr
    exact ⟨t, h, n, len, h2.trans x.packet, x.size, h4.trans x.explen, by rw [h5]; exact x.field, x.total,
      by rw [h7]; exact x.fits, by rw [h3]; exact x.low, by rw [h3, h6]; exact x.high, by rw [h5, h3]; exact x.written⟩

theorem State.Inv.srcGetOp {s : State} (h : s.Inv) : (srcGetOp s).Inv :=
  h.congr (by simp) (by simp) (by simp) (by simp) (by simp) (by simp) (by simp) (by
    rw [srcGetOp_frame]; exact h.config)

theorem State.Ready.srcGetOp {s : State} (h : s.Ready) : (srcGetOp s).Ready := by
  rw [srcGetOp_frame]; exact ⟨h.config, h.sink, h.idle⟩

/-- The part of the invariant that does not depend on the decoder's state. -/
structure Sound (s : State) : Prop where
  config : s.configOk = true
  wf : s.buf.wf = true
  bounded : ∀ c ∈ s.buf, c.1 < s.cfg.bufCap

theorem State.Inv.sound {s : State} (h : s.Inv) : Sound s := ⟨h.config, h.wf, h.bounded⟩

theorem Sound.limits {s : State} (h : Sound s) :
    markersDistinct s.cfg = true ∧ 258 ≤ s.cfg.bufCap ∧ s.cfg.bufCap ≤ 65535 ∧
      4 + s.maxAclLen.toNat ≤ s.cfg.bufCap := by
  obtain ⟨h1, h2⟩ := configOk_iff.1 h.config
  exact ⟨markersDistinct_of_encoderConfigOk h1, h2⟩

theorem Sound.putByte {s : State} (h : Sound s) {a : Nat} (b : Byte) (ha : a < s.cfg.bufCap) : Sound (s.putByte a b) :=
  ⟨h.config, wf_write _ _ _ h.wf, fun c hc => by
    rcases mem_write hc with h' | h'
    · rw [h']; exact ha
    · exact h.bounded c h'⟩

/-- A byte stored behind the header leaves the length field alone. -/
theorem lenField_write {m : Memory} {t : PacketType} {h a : Nat} {b : Byte} (h1 : headerSize t = some h) (ha : h ≤ a) :
    lenField (m.write a b) t = lenField m t := by
  cases t with
  | command => cases h1; simp [lenField, lenCommand, byte_write_ne m b (show 2 ≠ a by omega)]
  | event => cases h1; simp [lenField, lenEvent, byte_write_ne m b (show 1 ≠ a by omega)]
  | aclData =>
    cases h1
    simp [lenField, lenAcl, byte_write_ne m b (show 2 ≠ a by omega), byte_write_ne m b (show 3 ≠ a by omega)]
  | synchronousData => rfl

/-- The header read back from `BUF` declares what `LEN` reads. -/
theorem headerLength_take {m : Memory} {t : PacketType} {h n : Nat} {len : U16} (h1 : headerSize t = some h)
    (h2 : lenField m t = some len) (h4 : h ≤ n) : headerLength t ((m.readFrom 0 n).take h) = some len.toNat := by
  obtain ⟨k, rfl⟩ : ∃ k, n = h + k := ⟨n - h, by omega⟩
  cases t with
  | command =>
    cases h1
    cases h2
    have := (m.byte 2).isLt
    rw [Nat.add_comm]
    simp [readFrom_succ, headerLength, unpackCmd, lenCommand]
    omega
  | event =>
    cases h1
    cases h2
    have := (m.byte 1).isLt
    rw [Nat.add_comm]
    simp [readFrom_succ, headerLength, unpackEvt, lenEvent]
    omega
  | aclData =>
    cases h1
    cases h2
    rw [Nat.add_comm]
    simp [readFrom_succ, headerLength, unpackAcl, lenAcl]
  | synchronousData => cases h1

/-- A packet read from `BUF` whose total is header size plus declared length is well formed. -/
theorem wellformed_packetOf {s : State} {t : PacketType} {h : Nat} {len n : U16} (h1 : headerSize t = some h)
    (h2 : lenField s.buf t = some len) (h4 : n.toNat = h + len.toNat) : (packetOf s t n).Wellformed h := by
  refine ⟨h1, ?_, ?_, ?_⟩
  · simp only [packetOf, length_readFrom]
    omega
  · simp only [packetOf, length_readFrom]
    rw [headerLength_take h1 h2 (by omega), h4, Nat.add_sub_cancel_left]
  · simp only [packetOf, length_readFrom]

/-- `COMPLETE` from the state it is entered with keeps the invariant and hands over one well-formed packet. -/
theorem completeOp_inv {s : State} {t : PacketType} {h : Nat} {n len : U16} (hs : Sound s)
    (hst : s.st = .accumulatingPayload) (h1 : s.mkTag = some t) (h2 : headerSize t = some h) (h3 : s.explen = some n)
    (h4 : lenField s.buf t = some len) (h5 : n.toNat = h + len.toNat) (h6 : n.toNat ≤ s.cfg.bufCap) (h7 : s.cnt = n)
    (h8 : s.buf.Written n.toNat) :
    ∃ u p, completeOp s = .next u ∧ u.Inv ∧ (u.busy = false → u.Empty) ∧ u.dispatched = s.dispatched ++ [p] ∧
      p.Wellformed h := by
  refine ⟨_, packetOf s t n, completeOp_eq h1 h2 h3 h6, ?_⟩
  have hp := wellformed_packetOf (s := s) h2 h4 h5
  cases hb : s.sinkBlocks with
  | true =>
    refine ⟨⟨hs.config, hs.wf, hs.bounded, ?_⟩, by simp [hb], rfl, hp⟩
    unfold State.Row
    rw [if_pos rfl, show (s.logDispatch (packetOf s t n)).st = _ from hst]
    refine ⟨t, h, n, len, h1, h2, h3, h4, h5, h6, ?_, ?_, ?_⟩
    · show h ≤ s.cnt.toNat
      rw [h7]; omega
    · rw [if_pos (by simpa using hb)]; exact h7
    · show s.buf.Written s.cnt.toNat
      rw [h7]; exact h8
  | false =>
    refine ⟨⟨hs.config, hs.wf, hs.bounded, ?_⟩, fun _ => ⟨rfl, rfl, rfl, rfl⟩, rfl, hp⟩
    exact ⟨⟨rfl, rfl, rfl, rfl⟩, by simpa using hb⟩

/-- The tail of a header-completing step keeps the invariant and hands over at most one packet, well formed. -/
theorem acceptHeader_inv {s : State} {t : PacketType} {h : Nat} {k len : U16} (hs : Sound s) (h1 : s.mkTag = some t)
    (h2 : headerSize t = some h) (hk : k.toNat = h) (h4 : lenField s.buf t = some len)
    (h6 : h + len.toNat ≤ s.cfg.bufCap) (h8 : s.buf.Written h) (hb : s.busy = false) :
    ∃ u ps, acceptHeader k len s = .next u ∧ u.Inv ∧ u.dispatched = s.dispatched ++ ps ∧
      ∀ p ∈ ps, Packet.Wellformed p h := by
  have hl := hs.limits
  have hn : (k + len).toNat = h + len.toNat := by rw [BitVec.toNat_add]; omega
  have hadd := add_len_eq_self (h := k) (len := len) (by omega)
  unfold acceptHeader
  split
  · rename_i he
    have h0 := hadd.1 he
    obtain ⟨u, p, hu, hi, _, hd, hp⟩ := completeOp_inv (s := s.enterPayload (k + len) k) (t := t) (h := h)
      (n := k + len) (len := len) ⟨hs.config, hs.wf, hs.bounded⟩ rfl h1 h2 rfl h4 hn
      (by show _ ≤ s.cfg.bufCap; omega) he (by rw [hn, h0]; exact h8)
    exact ⟨u, [p], hu, hi, hd, by simpa using hp⟩
  · rename_i he
    refine ⟨_, [], rfl, ⟨hs.config, hs.wf, hs.bounded, ?_⟩, by simp, by simp⟩
    refine ⟨t, h, k + len, len, h1, h2, rfl, h4, hn, by show _ ≤ s.cfg.bufCap; omega, ?_, ?_, ?_⟩
    · show h ≤ k.toNat
      omega
    · rw [if_neg (by simp [hb])]
      show k.toNat < _
      have : len.toNat ≠ 0 := fun h => he (hadd.2 h)
      omega
    · show s.buf.Written k.toNat
      rw [hk]; exact h8

end Sys2Proof.Machine
end

