-- ==== Sys2Proof/Laws/PerInstr.lean ====
section
/-! SUPPORT. Statements about every instruction as syntax, one lemma a constructor. -/

namespace Sys2Proof.Laws

/-- A row that has an encoding in the input stream is exactly one byte long (spec/30_encoding.md R80: "the first byte of
a packet selects the row"; every other row has no bit pattern). -/
def OneByteRows.Statement (i : Instr) : Prop := ∀ c bs, encode c i = some bs → bs.length = 1

theorem OneByteRows.hciCmd : OneByteRows.Statement .hciCmd := by
  intro c bs h
  cases h
  rfl

theorem OneByteRows.hciAcl : OneByteRows.Statement .hciAcl := by
  intro c bs h
  cases h
  rfl

theorem OneByteRows.hciSync : OneByteRows.Statement .hciSync := by
  intro c bs h
  cases h
  rfl

theorem OneByteRows.hciEvt : OneByteRows.Statement .hciEvt := by
  intro c bs h
  cases h
  rfl

theorem OneByteRows.notAMarker (b : Byte) : OneByteRows.Statement (.notAMarker b) := by
  intro c bs h
  cases h
  rfl

theorem OneByteRows.stepByte (b : Byte) : OneByteRows.Statement (.stepByte b) := nofun

theorem OneByteRows.drop (b : Byte) : OneByteRows.Statement (.drop b) := nofun

theorem OneByteRows.markCmd (b : Byte) : OneByteRows.Statement (.markCmd b) := nofun

theorem OneByteRows.markAcl (b : Byte) : OneByteRows.Statement (.markAcl b) := nofun

theorem OneByteRows.markEvt (b : Byte) : OneByteRows.Statement (.markEvt b) := nofun

theorem OneByteRows.markSync (b : Byte) : OneByteRows.Statement (.markSync b) := nofun

theorem OneByteRows.hdrAcc (b : Byte) : OneByteRows.Statement (.hdrAcc b) := nofun

theorem OneByteRows.hdrRejSync (b : Byte) : OneByteRows.Statement (.hdrRejSync b) := nofun

theorem OneByteRows.hdrEndCmd (b : Byte) : OneByteRows.Statement (.hdrEndCmd b) := nofun

theorem OneByteRows.hdrEndEvt (b : Byte) : OneByteRows.Statement (.hdrEndEvt b) := nofun

theorem OneByteRows.hdrEndAcl (b : Byte) : OneByteRows.Statement (.hdrEndAcl b) := nofun

theorem OneByteRows.payAcc (b : Byte) : OneByteRows.Statement (.payAcc b) := nofun

theorem OneByteRows.payEnd (b : Byte) : OneByteRows.Statement (.payEnd b) := nofun

theorem OneByteRows.complete : OneByteRows.Statement .complete := nofun

theorem OneByteRows.resync (k : ResyncCause) : OneByteRows.Statement (.resync k) := nofun

theorem OneByteRows.srcGet : OneByteRows.Statement .srcGet := nofun

theorem OneByteRows.drain : OneByteRows.Statement .drain := nofun

theorem OneByteRows.dispatch : OneByteRows.Statement .dispatch := nofun

theorem OneByteRows.encFrame (t : PacketType) (l : List Byte) : OneByteRows.Statement (.encFrame t l) := nofun

theorem OneByteRows.encCmd (o : U16) (p : Byte) (l : List Byte) : OneByteRows.Statement (.encCmd o p l) := nofun

theorem OneByteRows.encAcl (h : BitVec 12) (p q : BitVec 2) (d : U16) (l : List Byte) : OneByteRows.Statement (.encAcl h p q d l) := nofun

theorem OneByteRows.encEvt (o p : Byte) (l : List Byte) : OneByteRows.Statement (.encEvt o p l) := nofun

theorem OneByteRows.txFrame (l : List Byte) : OneByteRows.Statement (.txFrame l) := nofun

theorem OneByteRows.reset : OneByteRows.Statement .reset := nofun

theorem OneByteRows.config (v : Nat) : OneByteRows.Statement (.config v) := nofun

end Sys2Proof.Laws
end

