-- ==== Sys2Proof/Tests/Slice0.lean ====
section
/-! SUPPORT. Smoke tests of the well-formedness check, decoding of written-out bytes, single-step tests whose expected
results are the vectors of spec/95_test_vectors.md, and for every statement with hypotheses a witness that meets
them. -/

namespace Sys2Proof.Tests

open Sys2Proof.Machine

/-! ## Small states -/

/-- `AM0` with another bound than the reset state's. -/
def waiting (maxAcl : U16) : State := { State.reset with maxAclLen := maxAcl }

/-- In a header: `(AH, t, cnt, NONE)` with the given bytes at the start of `BUF`. -/
def inHeader (t : PacketType) (cnt : U16) (buf : Memory) : State :=
  { State.reset with st := .accumulatingHeader, mkTag := some t, cnt := cnt, buf := buf }

/-- In a payload: `(AP, t, cnt, n)`. -/
def inPayload (t : PacketType) (cnt n : U16) (buf : Memory) : State :=
  { State.reset with st := .accumulatingPayload, mkTag := some t, cnt := cnt, explen := some n, buf := buf }

/-- `(AP, Event, 3, 6)` of V4.1. -/
def event3 : State := inPayload .event 3 6 [(0, 0x0E), (1, 4), (2, 1)]

/-- `(AP, Event, 5, 6)` of V4.2. -/
def event5 : State := inPayload .event 5 6 [(0, 0x0E), (1, 4), (2, 1), (3, 3), (4, 0x0C)]

/-- All six bytes of V4.3 stored, `COMPLETE` about to run. -/
def event6 : State := inPayload .event 6 6 [(0, 0x0E), (1, 4), (2, 1), (3, 3), (4, 0x0C), (5, 0)]

/-- `(AH, AclData, 4, NONE)` of V3.3 with the given low length byte. -/
def acl4 (lo : Byte) : State := inHeader .aclData 4 [(0, 0x40), (1, 0x20), (2, lo)]

/-- `p` of the next state; `false` for a stop. -/
def okWith (o : Result) (p : State → Bool) : Bool :=
  match o with
  | .next s => p s
  | .fault _ => false
  | .refused _ => false

/-- The outcome is a refusal. -/
def isRefused (o : Result) : Bool :=
  match o with
  | .next _ => false
  | .fault _ => false
  | .refused _ => true

/-- The registers of the vectors: `(st, mk, cnt, explen)`. -/
def regs (s : State) : FsmState × Option PacketType × U16 × Option U16 := (s.st, s.mkTag, s.cnt, s.explen)

/-! ## Well-formedness: each check refuses an ill-formed term -/

theorem test_wf_notAMarker : (Instr.notAMarker 0x04).wellFormed Config.ref = false := by decide
theorem test_wf_drop : (Instr.drop 0x03).wellFormed Config.ref = false := by decide
theorem test_wf_markCmd : (Instr.markCmd 0x02).wellFormed Config.ref = false := by decide
theorem test_wf_markAcl : (Instr.markAcl 0x01).wellFormed Config.ref = false := by decide
theorem test_wf_markEvt : (Instr.markEvt 0x03).wellFormed Config.ref = false := by decide
theorem test_wf_markSync : (Instr.markSync 0x04).wellFormed Config.ref = false := by decide
theorem test_wf_txFrame_empty : (Instr.txFrame []).wellFormed Config.ref = false := by decide
theorem test_wf_txFrame_no_marker : (Instr.txFrame [0x05, 0x00]).wellFormed Config.ref = false := by decide
theorem test_wf_txFrame_too_long :
    (Instr.txFrame [1, 2, 3]).wellFormed { Config.ref with txCap := some 2 } = false := by decide
theorem test_wf_accepts : (Instr.txFrame [4, 0x13, 0]).wellFormed Config.ref = true := by decide

/-! ## Decoding: the bytes of R61 and R80 written out -/

theorem test_decode_cmd : decode Config.ref [0b00000001, 7] = .ok (.hciCmd, [7]) := rfl
theorem test_decode_acl : decode Config.ref [0b00000010] = .ok (.hciAcl, []) := rfl
theorem test_decode_sync : decode Config.ref [0b00000011] = .ok (.hciSync, []) := rfl
theorem test_decode_evt : decode Config.ref [0b00000100] = .ok (.hciEvt, []) := rfl
theorem test_decode_zero : decode Config.ref [0b00000000] = .ok (.notAMarker 0, []) := rfl
theorem test_decode_all_ones : decode Config.ref [0b11111111] = .ok (.notAMarker 255, []) := rfl
theorem test_decode_empty : decode Config.ref [] = .error .noByte := rfl
theorem test_decode_ambiguous : decode { Config.ref with markerEvt := 1 } [9] = .error .markersNotDistinct := rfl
theorem test_tableWord_acl : decodeTableWord 8 0x02 = some .hciAcl := rfl
theorem test_tableWord_other : decodeTableWord 8 0x80 = some (.notAMarker 0x80) := rfl
/-- The operation rows have no bits in the table: their word is the byte 0. -/
theorem test_tableWord_no_bits : decodeTableWord 0 0 = some (.notAMarker 0) := rfl
theorem test_withFetchWord :
    okWith (step (State.reset.withFetchWord 8 0x04)) (fun t => regs t = (.accumulatingHeader, some .event, 1, none)) =
      true := by decide

/-! ## One step each, from the vectors of spec/95_test_vectors.md -/

/-- V2.1. -/
theorem test_hciCmd :
    okWith (exec .hciCmd (waiting 27)) (fun t => regs t = (.accumulatingHeader, some .command, 1, none)) = true := by
  decide
/-- V2.2. -/
theorem test_hciAcl :
    okWith (exec .hciAcl (waiting 27)) (fun t => regs t = (.accumulatingHeader, some .aclData, 1, none)) = true := by
  decide
/-- V2.3. -/
theorem test_hciEvt :
    okWith (exec .hciEvt (waiting 27)) (fun t => regs t = (.accumulatingHeader, some .event, 1, none)) = true := by
  decide
/-- V2.4. -/
theorem test_hciSync : okWith (exec .hciSync (waiting 27)) (fun t => t = waiting 27) = true := by decide
/-- V2.11: a marker value inside a header is data. -/
theorem test_hciCmd_data :
    okWith (exec .hciCmd (inHeader .command 1 []))
      (fun t => regs t = (.accumulatingHeader, some .command, 2, none) && t.buf = [(0, 0x01)]) = true := by decide
/-- V4.7: a marker value inside a payload is data. -/
theorem test_hciAcl_data :
    okWith (exec .hciAcl event3) (fun t => t.cnt = 4 && t.buf.lookup 3 = some 0x02) = true := by decide
/-- V2.5. -/
theorem test_notAMarker : okWith (exec (.notAMarker 0) (waiting 27)) (fun t => t = waiting 27) = true := by decide
/-- V2.7. -/
theorem test_drop : okWith (exec (.drop 0xFF) (waiting 27)) (fun t => t = waiting 27) = true := by decide
/-- V3.1. -/
theorem test_stepByte_header :
    okWith (exec (.stepByte 3) (inHeader .command 1 []))
      (fun t => regs t = (.accumulatingHeader, some .command, 2, none)) = true := by decide
/-- V3.2: the second header byte goes to `BUF[1]`. -/
theorem test_hdrAcc :
    okWith (exec (.hdrAcc 0x0C) (inHeader .command 2 [(0, 3)])) (fun t => t.cnt = 3 && t.buf = [(0, 3), (1, 0x0C)]) =
      true := by decide
theorem test_hdrRejSync :
    okWith (exec (.hdrRejSync 9) (inHeader .synchronousData 2 [(0, 3)]))
      (fun t => regs t = (.awaitingMarker, none, 0, none) && t.buf = [(0, 3)] && t.dispatched = []) = true := by decide
/-- V3.5. -/
theorem test_hdrEndCmd_empty :
    okWith (exec (.hdrEndCmd 0) (inHeader .command 3 [(0, 3), (1, 0x0C)]))
      (fun t => regs t = (.awaitingMarker, none, 0, none) &&
        t.dispatched = [{ ptype := .command, bytes := [3, 0x0C, 0], length := 3 }]) = true := by decide
/-- V3.7: the largest parameter length. -/
theorem test_hdrEndCmd_largest :
    okWith (exec (.hdrEndCmd 0xFF) (inHeader .command 3 [(0, 0x34), (1, 0x12)]))
      (fun t => regs t = (.accumulatingPayload, some .command, 3, some 258)) = true := by decide
/-- V3.8. -/
theorem test_hdrEndEvt_empty :
    okWith (exec (.hdrEndEvt 0) (inHeader .event 2 [(0, 0x13)]))
      (fun t => t.dispatched = [{ ptype := .event, bytes := [0x13, 0], length := 2 }]) = true := by decide
/-- V3.9. -/
theorem test_hdrEndEvt :
    okWith (exec (.hdrEndEvt 4) (inHeader .event 2 [(0, 0x0E)]))
      (fun t => regs t = (.accumulatingPayload, some .event, 2, some 6)) = true := by decide
/-- V3.13: `1B 00` is 27, accepted; it fixes the byte order. -/
theorem test_hdrEndAcl_at_bound :
    okWith (exec (.hdrEndAcl 0) (acl4 0x1B)) (fun t => regs t = (.accumulatingPayload, some .aclData, 4, some 31)) =
      true := by decide
/-- V3.15: `00 01` is 256, rejected. -/
theorem test_hdrEndAcl_over_bound :
    okWith (exec (.hdrEndAcl 1) (acl4 0)) (fun t => regs t = (.awaitingMarker, none, 0, none) && t.dispatched = []) =
      true := by decide
/-- V4.1. -/
theorem test_payAcc :
    okWith (exec (.payAcc 1) (inPayload .event 2 6 [(0, 0x0E), (1, 4)]))
      (fun t => regs t = (.accumulatingPayload, some .event, 3, some 6) && t.buf.lookup 2 = some 1) = true := by decide
/-- V4.3. -/
theorem test_payEnd :
    okWith (exec (.payEnd 0) event5)
      (fun t => regs t = (.awaitingMarker, none, 0, none) &&
        t.dispatched = [{ ptype := .event, bytes := [0x0E, 4, 1, 3, 0x0C, 0], length := 6 }]) = true := by decide
theorem test_complete :
    okWith (exec .complete event6) (fun t => t.st = .awaitingMarker && t.dispatched.length = 1) = true := by decide
theorem test_dispatch :
    okWith (exec .dispatch event6) (fun t => regs t = regs event6 && t.dispatched.length = 1) = true := by decide
/-- A sink that never returns: the registers are not emptied (R128). -/
theorem test_complete_blocked :
    okWith (exec .complete { event6 with sinkPlan := [.never] }) (fun t => t.busy && regs t = regs event6) = true := by
  decide
theorem test_resync :
    okWith (exec (.resync .oversizedLength) event3) (fun t => regs t = (.awaitingMarker, none, 0, none) &&
      t.buf = event3.buf) = true := by decide
/-- V5.1, first row: `(Ok, 04, 2)`. -/
theorem test_srcGet :
    okWith (exec .srcGet { State.reset with rxq := [4, 0x0E, 0] })
      (fun t => t.srcAns = { status := .ok, byte := 4, remaining := 2 } && t.rxq = [0x0E, 0]) = true := by decide
/-- V5.1. -/
theorem test_drain :
    okWith (exec .drain { State.reset with rxq := [4, 0x0E, 0] })
      (fun t => t.dispatched = [{ ptype := .event, bytes := [0x0E, 0], length := 2 }] && t.consumed = 3) = true := by
  decide
/-- P4: `ENC.ACL(0x040, 2, 0, 3, [11 22 33])`. -/
theorem test_encAcl :
    okWith (exec (.encAcl 0x040 2 0 3 [0x11, 0x22, 0x33]) State.reset)
      (fun t => t.transmitted = [[0x02, 0x40, 0x20, 3, 0, 0x11, 0x22, 0x33]]) = true := by decide
/-- `CMD(0x2006, 2; AA BB)` of P2. -/
theorem test_encCmd :
    okWith (exec (.encCmd 0x2006 2 [0xAA, 0xBB]) State.reset)
      (fun t => t.transmitted = [[0x01, 0x06, 0x20, 2, 0xAA, 0xBB]]) = true := by decide
/-- `EVT(0x13, 0;)` of P2. -/
theorem test_encEvt :
    okWith (exec (.encEvt 0x13 0 []) State.reset) (fun t => t.transmitted = [[0x04, 0x13, 0]]) = true := by decide
theorem test_encFrame_over_capacity :
    okWith (exec (.encFrame .event [0x13, 0]) { State.reset with cfg := { Config.ref with txCap := some 2 } })
      (fun t => t.transmitted = []) = true := by decide
theorem test_txFrame :
    okWith (exec (.txFrame [0x04, 0x13, 0]) State.reset) (fun t => t.transmitted = [[0x04, 0x13, 0]]) = true := by
  decide
/-- P7, row 4. -/
theorem test_reset :
    okWith (exec .reset event3) (fun t => regs t = (.awaitingMarker, none, 0, none) && t.buf = event3.buf) = true := by
  decide
/-- P6, row 2. -/
theorem test_config :
    okWith (exec (.config 251) (waiting 27)) (fun t => t.maxAclLen = 251) = true := by decide
/-- P6, row 9. -/
theorem test_config_out_of_range :
    okWith (exec (.config 255) (waiting 27)) (fun t => t.maxAclLen = 27) = true := by decide
/-- R220. -/
theorem test_reentrant : isRefused (exec .drain { event6 with busy := true }) = true := by decide

/-! ## Witnesses: for each statement with hypotheses, values that meet all of them together -/

theorem ready_waiting : (waiting 27).Ready := ⟨by decide, rfl, rfl⟩
theorem ready_inHeader (t : PacketType) (n : U16) (m : Memory) : (inHeader t n m).Ready :=
  ⟨(by decide : State.reset.configOk = true), rfl, rfl⟩
theorem ready_inPayload (t : PacketType) (c n : U16) (m : Memory) : (inPayload t c n m).Ready :=
  ⟨(by decide : State.reset.configOk = true), rfl, rfl⟩
theorem empty_waiting (v : U16) : (waiting v).Empty := ⟨rfl, rfl, rfl, rfl⟩

/-- The bound 0 keeps the invariant in `AwaitingMarker`. -/
theorem inv_waiting : (waiting 0).Inv := ⟨by decide, rfl, by decide, ⟨rfl, rfl, rfl, rfl⟩, rfl⟩

/-- `(AH, AclData, 4, NONE)`: the upper end of the header row of R26. -/
theorem inv_acl4 : (acl4 0x1B).Inv :=
  ⟨by decide, rfl, by decide, .aclData, 4, rfl, rfl, by decide, by decide, rfl, by unfold Memory.Written; decide, rfl⟩

/-- `(AH, Command, 1, NONE)`: its lower end. -/
theorem inv_command1 : (inHeader .command 1 []).Inv :=
  ⟨by decide, rfl, by decide, .command, 3, rfl, rfl, by decide, by decide, rfl, by unfold Memory.Written; decide, rfl⟩

theorem inv_event5 : event5.Inv :=
  ⟨by decide, rfl, by decide, .event, 2, 6, 4, rfl, rfl, rfl, rfl, rfl, by decide, by decide, by decide, by
    unfold Memory.Written; decide⟩

/-- The completing step inside a `Dispatch` that does not return. -/
theorem inv_blocked : { event6 with busy := true }.Inv :=
  ⟨by decide, rfl, by decide, .event, 2, 6, 4, rfl, rfl, rfl, rfl, rfl, by decide, by decide, by decide, by
    unfold Memory.Written; decide⟩

/-- No byte is missing: what nothing has written holds a free value (R23), and a packet is handed over with it. -/
theorem test_unwritten_bytes :
    okWith (exec .dispatch (inPayload .event 2 2 [(0, 0x13)]))
      (fun t => t.dispatched.map (fun p => (p.bytes.take 1, p.bytes.length)) = [([0x13], 2)]) = true := by decide

/-- R7: every operation checks the configuration; here at a capacity `TX_CAP` of 0. -/
theorem test_txCap_zero :
    let s := { waiting 0 with cfg := { Config.ref with txCap := some 0 } }
    [exec (.stepByte 0) s, exec .drain s, exec .reset s, exec .srcGet s, exec (.config 0) s, exec .hciEvt s].map
      isRefused = [true, true, true, true, true, true] := by decide

/-- What a request of `n` header bytes and `k` payload bytes needs fits the reset state's output buffer. -/
theorem fits_replicate {n k : Nat} {b : Byte} (h : n + k ≤ 259) :
    ∀ cap, State.reset.cfg.txCap = some cap → n + (List.replicate k b).length ≤ cap := fun cap hc => by
  cases hc
  rwa [List.length_replicate]

/-- A valid packet of each type: without payload, and at the largest length. -/
theorem valid_packets :
    ValidPacket 27 .command [3, 0x0C, 0] [] ∧ ValidPacket 27 .command [0x34, 0x12, 255] (List.replicate 255 0xA5) ∧
    ValidPacket 27 .event [0x13, 0] [] ∧ ValidPacket 27 .event [0xFF, 255] (List.replicate 255 0x5A) ∧
    ValidPacket 27 .aclData [0x40, 0x20, 0, 0] [] ∧
    ValidPacket 27 .aclData [1, 0, 27, 0] (List.replicate 27 7) := by
  refine ⟨⟨rfl, nofun⟩, ⟨?_, nofun⟩, ⟨rfl, nofun⟩, ⟨?_, nofun⟩, ⟨rfl, fun _ => by decide⟩, ⟨?_, fun _ => ?_⟩⟩ <;>
    rw [List.length_replicate] <;> decide

theorem witness_DecodeAndEncodeAgree : markersDistinct Config.ref = true ∧
    (Instr.hciCmd.wellFormed Config.ref = true ∧ encode Config.ref .hciCmd = some [1]) ∧
    (Instr.hciAcl.wellFormed Config.ref = true ∧ encode Config.ref .hciAcl = some [2]) ∧
    (Instr.hciSync.wellFormed Config.ref = true ∧ encode Config.ref .hciSync = some [3]) ∧
    (Instr.hciEvt.wellFormed Config.ref = true ∧ encode Config.ref .hciEvt = some [4]) ∧
    ((Instr.notAMarker 5).wellFormed Config.ref = true ∧ encode Config.ref (.notAMarker 5) = some [5]) := by decide

theorem witness_ResetEmptiesDecoder :
    event3.configOk = true ∧ event3.busy = false ∧ event3.st = .accumulatingPayload := by decide

/-- The five clauses, each at the nearest illegal value. -/
theorem witness_BreachesOfDutyRefused :
    ({ event6 with busy := true }.busy = true ∧ isEncoder .drain = false ∧ isEncoder (.config 0) = false) ∧
    ({ event6 with sink := false }.notReady = some .noSink ∧
      { event6 with maxAclLen := 255 }.notReady = some .invalidConfig ∧
      { event6 with busy := true }.notReady = some .reentrant ∧
      typeOf { event6 with sink := false }.cfg 5 = none) ∧
    ({ waiting 255 with rxq := [4] }.configOk = false ∧ { waiting 255 with rxq := [4] }.agenda = [] ∧
      { waiting 255 with rxq := [4] }.busy = false ∧ { waiting 255 with rxq := [4] }.rxq ≠ []) ∧
    (staticConfigOk { Config.ref with bufCap := 257 } = false ∧
      staticConfigOk { Config.ref with bufCap := 65536 } = false ∧
      staticConfigOk { Config.ref with txCap := some 0 } = false) ∧
    (encoderConfigOk { Config.ref with txCap := some 0 } = false ∧
      encoderConfigOk { Config.ref with markerEvt := 1 } = false ∧ isEncoder (.encEvt 0 0 []) = true) := by decide

/-- The five clauses; in the first both branches. -/
theorem witness_OperationsRunWhereSelected :
    (event5.Ready ∧ select event5 0 = some .payEnd ∧ select event5 0 ≠ some .payAcc) ∧
    ((inPayload .event 6 6 []).Ready ∧ select (inPayload .event 6 6 []) 0 = none) ∧
    ¬ (event5.st = .accumulatingPayload ∧ event5.explen = some event5.cnt) ∧
    typeOf (waiting 0).cfg 3 = some .synchronousData ∧
    (encoderConfigOk (waiting 0).cfg = true ∧ isFrame (waiting 0).cfg [0] = false) :=
  ⟨⟨ready_inPayload _ _ _ _, by decide, by decide⟩, ⟨ready_inPayload _ _ _ _, by decide⟩, by decide, by decide,
    by decide⟩

/-- Both ends of the range of `CONFIG`, at both ends of `BUF_CAP`; the bound it replaces may be out of range. -/
theorem witness_ConfigSetsBound :
    (event3.busy = false ∧ staticConfigOk event3.cfg = true ∧ 4 + 0 ≤ event3.cfg.bufCap ∧
      4 + 254 ≤ event3.cfg.bufCap ∧ (waiting 255).configOk = false) ∧
    (staticConfigOk { Config.ref with bufCap := 65535 } = true ∧
      4 + 65531 ≤ { event3 with cfg := { Config.ref with bufCap := 65535 } }.cfg.bufCap) := by decide

theorem witness_ConfigOutOfRangeChangesNothing :
    event3.busy = false ∧ staticConfigOk event3.cfg = true ∧ event3.cfg.bufCap < 4 + 255 := by decide

theorem witness_MarkersOpenPackets : (waiting 27).Ready ∧ (waiting 27).st = .awaitingMarker := ⟨ready_waiting, rfl⟩

theorem witness_MarkerRowsOpenPackets : (waiting 27).Ready ∧ (waiting 27).st = .awaitingMarker := ⟨ready_waiting, rfl⟩

theorem witness_UnrecognisedByteDropped : (waiting 27).Ready ∧ (waiting 27).st = .awaitingMarker ∧
    typeOf (waiting 27).cfg 0 = none ∧ typeOf (waiting 27).cfg 5 = none ∧ typeOf (waiting 27).cfg 0xFF = none :=
  ⟨ready_waiting, by decide⟩

theorem witness_SyncMarkerDropped : (waiting 27).Ready ∧ (waiting 27).st = .awaitingMarker := ⟨ready_waiting, rfl⟩

/-- Every clause: the first and the last byte stored by `HDR.ACC`, the byte that ends each header, the last byte stored
by `PAY.ACC`, the byte that ends a payload. -/
theorem witness_MarkerValuesInsidePacketsAreData :
    ((Instr.hciSync.wellFormed Config.ref = true ∧ encode Config.ref .hciSync = some [3]) ∧
      (Instr.notAMarker 9).wellFormed Config.ref = true ∧ encode Config.ref (.notAMarker 9) = some [9]) ∧
    (∀ t n, (inHeader t n []).Ready ∧ (inHeader t n []).st = .accumulatingHeader ∧ (inHeader t n []).mkTag = some t) ∧
    (headerSize .command = some 3 ∧ headerSize .event = some 2 ∧ headerSize .aclData = some 4) ∧
    (1 ≤ (inHeader .event 1 []).cnt.toNat ∧ (inHeader .event 1 []).cnt.toNat < 2 ∧
      1 ≤ (inHeader .aclData 3 []).cnt.toNat ∧ (inHeader .aclData 3 []).cnt.toNat < 4 ∧
      (inHeader .command 3 []).cnt.toNat = 3 ∧ (inHeader .event 2 []).cnt.toNat = 2 ∧
      (inHeader .aclData 4 []).cnt.toNat = 4) ∧
    (∀ n, (inPayload .event n 6 []).Ready ∧ (inPayload .event n 6 []).st = .accumulatingPayload ∧
      (inPayload .event n 6 []).explen = some 6) ∧
    (inPayload .event 4 6 []).cnt.toNat + 1 < (6 : U16).toNat ∧
    (inPayload .event 5 6 []).cnt.toNat + 1 = (6 : U16).toNat :=
  ⟨by decide, fun _ _ => ⟨ready_inHeader _ _ _, rfl, rfl⟩, by decide, by decide,
    fun _ => ⟨ready_inPayload _ _ _ _, rfl, rfl⟩, by decide, by decide⟩

/-- All three clauses. -/
theorem witness_StepSelectsOperation :
    ((waiting 0).Inv ∧ (waiting 0).Ready ∧ (waiting 0).st = .awaitingMarker) ∧
    ((inHeader .command 1 []).Inv ∧ (inHeader .command 1 []).Ready ∧
      (inHeader .command 1 []).st = .accumulatingHeader ∧
      ∀ t, (inHeader .command 1 []).mkTag = some t → t ≠ .synchronousData → headerSize t = some 3) ∧
    ((acl4 0x1B).Inv ∧ (acl4 0x1B).Ready ∧ (acl4 0x1B).st = .accumulatingHeader ∧
      ∀ t, (acl4 0x1B).mkTag = some t → t ≠ .synchronousData → headerSize t = some 4) ∧
    (event5.Inv ∧ event5.Ready ∧ event5.st = .accumulatingPayload ∧ event5.explen = some 6) :=
  ⟨⟨inv_waiting, ⟨by decide, rfl, rfl⟩, rfl⟩,
    ⟨inv_command1, ready_inHeader _ _ _, rfl, fun t h _ => by cases h; rfl⟩,
    ⟨inv_acl4, ready_inHeader _ _ _, rfl, fun t h _ => by cases h; rfl⟩,
    ⟨inv_event5, ready_inPayload _ _ _ _, rfl, rfl⟩⟩

theorem witness_StepIsTotal : event5.Inv ∧ event5.Ready := ⟨inv_event5, ready_inPayload _ _ _ _⟩

/-- The first and the last index `HDR.ACC` writes. -/
theorem witness_HeaderByteStored :
    ((inHeader .command 1 []).Ready ∧ (inHeader .command 1 []).st = .accumulatingHeader ∧
      (inHeader .command 1 []).mkTag = some .command ∧ headerSize .command = some 3 ∧
      1 ≤ (inHeader .command 1 []).cnt.toNat ∧
      (inHeader .command 1 []).cnt.toNat < 3) ∧
    ((inHeader .aclData 3 []).Ready ∧ (inHeader .aclData 3 []).st = .accumulatingHeader ∧
      (inHeader .aclData 3 []).mkTag = some .aclData ∧ headerSize .aclData = some 4 ∧
      1 ≤ (inHeader .aclData 3 []).cnt.toNat ∧ (inHeader .aclData 3 []).cnt.toNat < 4) :=
  ⟨⟨ready_inHeader _ _ _, rfl, rfl, rfl, by decide, by decide⟩, ready_inHeader _ _ _, rfl, rfl, rfl, by decide,
    by decide⟩

theorem witness_UnsupportedHeaderRejected :
    ((inHeader .synchronousData 1 []).Ready ∧ (inHeader .synchronousData 1 []).st = .accumulatingHeader ∧
      (inHeader .synchronousData 1 []).mkTag = some .synchronousData) ∧
    ({ inHeader .event 1 [] with mkTag := none }.Ready ∧
      { inHeader .event 1 [] with mkTag := none }.st = .accumulatingHeader ∧
      { inHeader .event 1 [] with mkTag := none }.mkTag = none) :=
  ⟨⟨ready_inHeader _ _ _, rfl, rfl⟩, ⟨by decide, rfl, rfl⟩, rfl, rfl⟩

theorem witness_ResyncDiscardsPacket : event3.Ready := ready_inPayload _ _ _ _

theorem witness_CommandHeaderEnds :
    (inHeader .command 3 [(0, 3), (1, 0x0C)]).Ready ∧
    (inHeader .command 3 [(0, 3), (1, 0x0C)]).st = .accumulatingHeader ∧
    (inHeader .command 3 [(0, 3), (1, 0x0C)]).mkTag = some .command ∧
    (inHeader .command 3 [(0, 3), (1, 0x0C)]).cnt = 3 ∧ (inHeader .command 3 [(0, 3), (1, 0x0C)]).SinkReturns :=
  ⟨ready_inHeader _ _ _, rfl, rfl, rfl, by unfold State.SinkReturns; decide⟩

theorem witness_EventHeaderEnds :
    (inHeader .event 2 [(0, 0x13)]).Ready ∧ (inHeader .event 2 [(0, 0x13)]).st = .accumulatingHeader ∧
    (inHeader .event 2 [(0, 0x13)]).mkTag = some .event ∧ (inHeader .event 2 [(0, 0x13)]).cnt = 2 ∧
    (inHeader .event 2 [(0, 0x13)]).SinkReturns :=
  ⟨ready_inHeader _ _ _, rfl, rfl, rfl, by unfold State.SinkReturns; decide⟩

/-- The three branches: one over the bound, no data, exactly the bound. -/
theorem witness_AclHeaderEnds :
    (∀ lo, (acl4 lo).Ready ∧ (acl4 lo).st = .accumulatingHeader ∧ (acl4 lo).mkTag = some .aclData ∧
      (acl4 lo).cnt = 4 ∧ (acl4 lo).SinkReturns) ∧
    (acl4 28).maxAclLen.toNat < ((acl4 28).buf.byte 2).toNat + 256 * (0 : Byte).toNat ∧
    ((acl4 0).buf.byte 2).toNat + 256 * (0 : Byte).toNat = 0 ∧
    ¬ (acl4 27).maxAclLen.toNat < ((acl4 27).buf.byte 2).toNat + 256 * (0 : Byte).toNat :=
  ⟨fun _ => ⟨ready_inHeader _ _ _, rfl, rfl, rfl, by
    unfold State.SinkReturns; exact (by decide : State.reset.sinkAnswer ≠ .never)⟩, by decide⟩

/-- The last byte `PAY.ACC` stores, in a packet that fills the buffer. -/
theorem witness_PayloadByteStored :
    (inPayload .command 256 258 []).Ready ∧ (inPayload .command 256 258 []).st = .accumulatingPayload ∧
    (inPayload .command 256 258 []).explen = some 258 ∧
    (258 : U16).toNat ≤ (inPayload .command 256 258 []).cfg.bufCap ∧
    (inPayload .command 256 258 []).cnt.toNat + 1 < (258 : U16).toNat :=
  ⟨ready_inPayload _ _ _ _, rfl, rfl, by decide, by decide⟩

theorem witness_LastPayloadByteCompletes :
    event5.Ready ∧ event5.st = .accumulatingPayload ∧ event5.mkTag = some .event ∧ headerSize .event = some 2 ∧
    event5.explen = some 6 ∧ (6 : U16).toNat ≤ event5.cfg.bufCap ∧ event5.cnt.toNat + 1 = (6 : U16).toNat ∧
    event5.SinkReturns :=
  ⟨ready_inPayload _ _ _ _, rfl, rfl, rfl, rfl, by decide, by decide, by unfold State.SinkReturns; decide⟩

theorem witness_CompleteDispatchesAndEmpties :
    event6.Ready ∧ event6.st = .accumulatingPayload ∧ event6.mkTag = some .event ∧ headerSize .event = some 2 ∧
    event6.explen = some event6.cnt ∧ event6.cnt.toNat ≤ event6.cfg.bufCap ∧ event6.SinkReturns :=
  ⟨ready_inPayload _ _ _ _, rfl, rfl, rfl, rfl, by decide, by unfold State.SinkReturns; decide⟩

theorem witness_DispatchHandsOverPacket :
    event6.Ready ∧ event6.st = .accumulatingPayload ∧ event6.mkTag = some .event ∧ headerSize .event = some 2 ∧
    event6.explen = some event6.cnt ∧ event6.cnt.toNat ≤ event6.cfg.bufCap ∧ event6.SinkReturns :=
  witness_CompleteDispatchesAndEmpties

theorem witness_SinkResultIgnored :
    (∀ a ∈ [SinkAnswer.failure], a ≠ .never) ∧ (∀ a ∈ [SinkAnswer.success], a ≠ .never) ∧
    ∃ t, exec (.payEnd 0) { event5 with sinkPlan := [.failure] } = .next t := ⟨by decide, by decide, _, rfl⟩

/-- A sink that will not return from the next `Dispatch`. -/
def withDeadSink (s : State) : State := { s with sinkPlan := [.never] }

/-- The five completing steps. -/
theorem witness_SinkNeverReturningBlocks :
    (∀ s, (withDeadSink s).sinkAnswer = .never) ∧
    ((withDeadSink (inHeader .command 3 [])).Ready ∧ (withDeadSink (inHeader .command 3 [])).agenda = [] ∧
      (withDeadSink (inHeader .command 3 [])).st = .accumulatingHeader ∧
      (withDeadSink (inHeader .command 3 [])).mkTag = some .command ∧
      (withDeadSink (inHeader .command 3 [])).cnt = 3) ∧
    ((withDeadSink (inHeader .event 2 [])).Ready ∧ (withDeadSink (inHeader .event 2 [])).agenda = [] ∧
      (withDeadSink (inHeader .event 2 [])).st = .accumulatingHeader ∧
      (withDeadSink (inHeader .event 2 [])).mkTag = some .event ∧ (withDeadSink (inHeader .event 2 [])).cnt = 2) ∧
    ((withDeadSink (acl4 0)).Ready ∧ (withDeadSink (acl4 0)).agenda = [] ∧
      (withDeadSink (acl4 0)).st = .accumulatingHeader ∧ (withDeadSink (acl4 0)).mkTag = some .aclData ∧
      (withDeadSink (acl4 0)).cnt = 4 ∧ (withDeadSink (acl4 0)).buf.byte 2 = 0) ∧
    ((withDeadSink event5).Ready ∧ (withDeadSink event5).agenda = [] ∧
      (withDeadSink event5).st = .accumulatingPayload ∧ (withDeadSink event5).mkTag = some .event ∧
      headerSize .event = some 2 ∧ (withDeadSink event5).explen = some 6 ∧
      (6 : U16).toNat ≤ (withDeadSink event5).cfg.bufCap ∧ (withDeadSink event5).cnt.toNat + 1 = (6 : U16).toNat) ∧
    ((withDeadSink event6).Ready ∧ (withDeadSink event6).agenda = [] ∧
      (withDeadSink event6).st = .accumulatingPayload ∧ (withDeadSink event6).mkTag = some .event ∧
      (withDeadSink event6).explen = some 6 ∧ (withDeadSink event6).cnt = 6) :=
  ⟨fun _ => rfl, ⟨⟨by decide, rfl, rfl⟩, rfl, rfl, rfl, rfl⟩, ⟨⟨by decide, rfl, rfl⟩, rfl, rfl, rfl, rfl⟩,
    ⟨⟨by decide, rfl, rfl⟩, rfl, rfl, rfl, rfl, rfl⟩,
    ⟨⟨by decide, rfl, rfl⟩, rfl, rfl, rfl, rfl, rfl, by decide, by decide⟩,
    ⟨by decide, rfl, rfl⟩, rfl, rfl, rfl, rfl, rfl⟩

theorem witness_ForbiddenTransitions :
    (∃ t, exec (.stepByte 4) (waiting 27) = .next t) ∧ (∃ t, exec (.stepByte 0) event5 = .next t) :=
  ⟨⟨_, rfl⟩, ⟨_, rfl⟩⟩

/-- Three of the causes of R180; the fourth is not raised by a byte. -/
theorem witness_FramingErrorsRecover :
    ((waiting 0).Inv ∧ (waiting 0).Ready ∧ stepCause (waiting 0) 5 = some .unrecognisedMarker ∧
      stepCause (waiting 0) 3 = some .unsupportedType) ∧
    ((acl4 0x1B).Inv ∧ (acl4 0x1B).Ready ∧ stepCause (acl4 0x1B) 1 = some .oversizedLength) :=
  ⟨⟨inv_waiting, ⟨by decide, rfl, rfl⟩, by decide, by decide⟩, inv_acl4, ready_inHeader _ _ _, by decide⟩

/-- The three answers. -/
theorem witness_SourceAnswers :
    event3.configOk = true ∧ event3.busy = false ∧ event3.rxq = [] ∧ { event3 with rxq := [4] }.rxq = [4] ∧
    { event3 with srcPlan := [{ error := true, arrive := [] }] }.srcTurn.error = true := by decide

theorem witness_DrainOfEmptyQueueKeepsState :
    event3.Ready ∧ event3.rxq = [] ∧ event3.srcTurn.error = false ∧ event3.agenda = [] :=
  ⟨ready_inPayload _ _ _ _, rfl, rfl, rfl⟩

theorem witness_DrainOnSourceErrorKeepsState :
    { event3 with srcPlan := [{ error := true, arrive := [] }] }.Ready ∧
    { event3 with srcPlan := [{ error := true, arrive := [] }] }.srcTurn.error = true :=
  ⟨⟨by decide, rfl, rfl⟩, rfl⟩

/-- The longest queue the statement speaks of. -/
theorem witness_DrainConsumesQueue :
    { waiting 0 with rxq := List.replicate 65536 4 }.Inv ∧ { waiting 0 with rxq := List.replicate 65536 4 }.Ready ∧
    { waiting 0 with rxq := List.replicate 65536 4 }.SinkAlwaysReturns ∧
    { waiting 0 with rxq := List.replicate 65536 4 }.srcPlan = [] ∧
    { waiting 0 with rxq := List.replicate 65536 4 }.rxq.length ≤ 65536 :=
  ⟨⟨inv_waiting.config, rfl, inv_waiting.bounded, ⟨rfl, rfl, rfl, rfl⟩, rfl⟩, ⟨inv_waiting.config, rfl, rfl⟩,
    fun _ h => (List.not_mem_nil h).elim, rfl, Nat.le_of_eq List.length_replicate⟩

theorem witness_DrainIsRunOfSteps :
    { waiting 27 with rxq := [4, 0x0E, 0] }.agenda = [] ∧ { waiting 27 with rxq := [4, 0x0E, 0] }.rxq ≠ [] ∧
    ∃ t, exec .drain { waiting 27 with rxq := [4, 0x0E, 0] } = .next t := ⟨rfl, by decide, _, rfl⟩

/-- A request that fills the output buffer, and one byte more. -/
theorem witness_EncoderFramesOrTurnsAway :
    encoderConfigOk State.reset.cfg = true ∧
    (∀ cap, State.reset.cfg.txCap = some cap → (List.replicate 258 (7 : Byte)).length + 1 ≤ cap) ∧
    State.reset.cfg.txCap = some 259 ∧ 259 < (List.replicate 259 (7 : Byte)).length + 1 :=
  ⟨by decide, fun cap h => by rw [Nat.add_comm]; exact fits_replicate (n := 1) (by decide) cap h, rfl, by
    rw [List.length_replicate]; decide⟩

/-- Each request at the largest size that fits `TX_CAP`, and one byte over it. -/
theorem witness_FieldEncodersPack :
    encoderConfigOk State.reset.cfg = true ∧
    (∀ cap, State.reset.cfg.txCap = some cap → 4 + (List.replicate 255 (7 : Byte)).length ≤ cap) ∧
    (∀ cap, State.reset.cfg.txCap = some cap → 5 + (List.replicate 254 (7 : Byte)).length ≤ cap) ∧
    (∀ cap, State.reset.cfg.txCap = some cap → 3 + (List.replicate 256 (7 : Byte)).length ≤ cap) ∧
    (65535 : U16).toNat = (4095 : BitVec 12).toNat + 4096 * (3 : BitVec 2).toNat + 16384 * (3 : BitVec 2).toNat ∧
    State.reset.cfg.txCap = some 259 ∧ 259 < 4 + (List.replicate 256 (7 : Byte)).length ∧
    259 < 5 + (List.replicate 255 (7 : Byte)).length ∧ 259 < 3 + (List.replicate 257 (7 : Byte)).length := by
  refine ⟨by decide, fits_replicate (by decide), fits_replicate (by decide), fits_replicate (by decide), by decide, rfl,
    ?_, ?_, ?_⟩ <;> rw [List.length_replicate] <;> decide

theorem witness_FrameHandedOver :
    encoderConfigOk State.reset.cfg = true ∧
    ∀ cap, State.reset.cfg.txCap = some cap → [(0x13 : Byte), 0].length + 1 ≤ cap :=
  ⟨by decide, fun cap h => by cases h; decide⟩

theorem witness_EncoderIsStateless :
    isEncoder (.encEvt 0x13 0 []) = true ∧ { Config.ref with bufCap := 300 } = { (waiting 0).cfg with bufCap := 300 } ∧
    ∃ t, exec (.encEvt 0x13 0 []) (waiting 0) = .next t := ⟨rfl, rfl, _, rfl⟩

theorem witness_EncoderCommutesWithDecoder :
    isEncoder (.encEvt 0x13 0 []) = true ∧ isEncoder (.payEnd 0) = false ∧
    (∃ t, exec (.encEvt 0x13 0 []) event5 = .next t) ∧ ∃ t, exec (.payEnd 0) event5 = .next t :=
  ⟨rfl, rfl, ⟨_, rfl⟩, ⟨_, rfl⟩⟩

theorem witness_StepRunsDecodedInstruction :
    { waiting 27 with rxq := [4, 0] }.configOk = true ∧
    { waiting 27 with rxq := [4, 0] }.agenda = [] ∧ { waiting 27 with rxq := [4, 0] }.busy = false ∧
    { waiting 27 with rxq := [4, 0] }.rxq = 4 :: [0] ∧ { waiting 27 with rxq := [4, 0] }.srcTurn.error = false ∧
    decode { waiting 27 with rxq := [4, 0] }.cfg [4] = .ok (.hciEvt, []) := ⟨by decide, rfl, rfl, rfl, rfl, rfl⟩

/-- The three clauses. -/
theorem witness_StepTakesPendingEvents :
    { waiting 27 with agenda := [.deliver [4]] }.agenda = .deliver [4] :: [] ∧
    { waiting 27 with agenda := [.call .drain] }.agenda = .call .drain :: [] ∧
    (waiting 27).agenda = [] ∧ (waiting 27).rxq = [] ∧ { event6 with busy := true }.busy = true :=
  ⟨rfl, rfl, rfl, rfl, rfl⟩

theorem witness_StepKeepsInvariant :
    ({ waiting 0 with rxq := [4, 0x0E] }.Inv ∧ ∃ t, step { waiting 0 with rxq := [4, 0x0E] } = .next t) ∧
    ({ event6 with busy := true }.Inv ∧ ∃ t, step { event6 with busy := true } = .next t) :=
  ⟨⟨⟨inv_waiting.config, rfl, inv_waiting.bounded, ⟨rfl, rfl, rfl, rfl⟩, rfl⟩, _, rfl⟩, inv_blocked, _, rfl⟩

theorem witness_NoFaultFromInvariant : event5.Inv ∧ (acl4 0x1B).Inv ∧ { event6 with busy := true }.Inv :=
  ⟨inv_event5, inv_acl4, inv_blocked⟩

theorem witness_InputNeverStops : event5.Inv ∧ event5.sink = true ∧ event5.agenda = [] := ⟨inv_event5, rfl, rfl⟩

theorem witness_OutputsOnlyGrow : ∃ t, step { event5 with rxq := [0] } = .next t := ⟨_, rfl⟩

/-- A step that changes `MAX_ACL_LEN`. -/
theorem witness_ConfigurationIsStatic :
    ∃ t, step { waiting 27 with agenda := [.call (.config 254)] } = .next t ∧ t.maxAclLen = 254 := ⟨_, rfl, rfl⟩

theorem witness_DispatchedPacketsWellFormed :
    { event5 with rxq := [0] }.Inv ∧
    (∃ t, step { event5 with rxq := [0] } = .next t) ∧
    (∀ p ∈ event5.dispatched, ∃ h, p.Wellformed h) ∧
    Packet.Wellformed { ptype := .event, bytes := [0x13, 0], length := 2 } 2 :=
  ⟨inv_event5.congr rfl rfl rfl rfl rfl rfl rfl inv_event5.config, ⟨_, rfl⟩,
    fun _ h => (List.not_mem_nil h).elim, rfl, by decide, rfl, rfl⟩

theorem sink_waiting (v : U16) : (waiting v).SinkReturns := by
  unfold State.SinkReturns
  exact (by decide : State.reset.sinkAnswer ≠ .never)

/-- The hypotheses on the state are met by `waiting 27`, those on the packet by `valid_packets`. -/
theorem witness_RoundTrip :
    (waiting 27).Ready ∧ (waiting 27).Empty ∧ (waiting 27).SinkReturns ∧
    ValidPacket (waiting 27).maxAclLen .command [0x34, 0x12, 255] (List.replicate 255 0xA5) ∧
    ∀ cap, (waiting 27).cfg.txCap = some cap →
      ([0x34, 0x12, 255] ++ List.replicate 255 (0xA5 : Byte)).length + 1 ≤ cap :=
  ⟨ready_waiting, empty_waiting _, sink_waiting _, valid_packets.2.1, fun cap h => by
    cases h; rw [List.length_append, List.length_replicate]; decide⟩

/-- The three clauses, each at its largest payload. -/
theorem witness_FieldRoundTrip :
    ((waiting 27).Ready ∧ (waiting 27).Empty ∧ (waiting 27).SinkReturns) ∧
    ((List.replicate 255 (1 : Byte)).length = (255 : Byte).toNat ∧
      ∀ cap, (waiting 27).cfg.txCap = some cap → 4 + (List.replicate 255 (1 : Byte)).length ≤ cap) ∧
    ((List.replicate 27 (1 : Byte)).length = (27 : U16).toNat ∧ (27 : U16).toNat ≤ (waiting 27).maxAclLen.toNat ∧
      ∀ cap, (waiting 27).cfg.txCap = some cap → 5 + (List.replicate 27 (1 : Byte)).length ≤ cap) ∧
    ∀ cap, (waiting 27).cfg.txCap = some cap → 3 + (List.replicate 255 (1 : Byte)).length ≤ cap :=
  ⟨⟨ready_waiting, empty_waiting _, sink_waiting _⟩, ⟨List.length_replicate, fits_replicate (by decide)⟩,
    ⟨List.length_replicate, by decide, fits_replicate (by decide)⟩, fits_replicate (by decide)⟩

theorem witness_ChunkInvariance :
    (waiting 0).Inv ∧ (waiting 0).Ready ∧ (waiting 0).SinkAlwaysReturns ∧ (waiting 0).srcPlan = [] ∧
    (waiting 0).rxq = [] ∧ ([(4 : Byte)] ++ [0x0E, 0]).length ≤ 65536 :=
  ⟨inv_waiting, ⟨inv_waiting.config, rfl, rfl⟩, fun _ h => (List.not_mem_nil h).elim, rfl, rfl, by decide⟩

theorem witness_GarbageHasNoEffect :
    (waiting 27).Ready ∧ (waiting 27).Empty ∧
    ∀ b ∈ [(0 : Byte), 0xFF, 3], typeOf (waiting 27).cfg b = none ∨ typeOf (waiting 27).cfg b = some .synchronousData :=
  ⟨ready_waiting, empty_waiting _, by decide⟩

/-- One over the bound. -/
theorem witness_OversizedHeaderRejected :
    (waiting 27).Ready ∧ (waiting 27).Empty ∧
    (waiting 27).maxAclLen.toNat < (28 : Byte).toNat + 256 * (0 : Byte).toNat :=
  ⟨ready_waiting, empty_waiting _, by decide⟩

theorem witness_StaleBufferUnobservable :
    (waiting 27).Empty ∧ ∃ t, feed [4, 0x0E, 1, 0x77] (waiting 27) = .next t := ⟨empty_waiting _, _, rfl⟩

/-- The three clauses; in the second all three entries of the list. -/
theorem witness_BoundaryLengths :
    ((waiting 27).Ready ∧ (waiting 27).Empty ∧ (waiting 27).SinkReturns) ∧
    headerLength .aclData [0x40, 0x20, 0, 0] = some 0 ∧
    headerLength .command [0x34, 0x12, 255] = some (List.replicate 255 (1 : Byte)).length ∧
    headerLength .event [0xFF, 255] = some (List.replicate 255 (1 : Byte)).length ∧
    headerLength .aclData [1, 0, 27, 0] = some (List.replicate 27 (1 : Byte)).length ∧
    (waiting 27).maxAclLen.toNat = 27 ∧
    headerLength .aclData [0x40, 0x20, 28, 0] = some ((waiting 27).maxAclLen.toNat + 1) := by
  refine ⟨⟨ready_waiting, empty_waiting _, sink_waiting _⟩, rfl, ?_, ?_, ?_, rfl, rfl⟩ <;> rw [List.length_replicate] <;>
    rfl

theorem witness_InterleavedPacketsFramed :
    (waiting 27).Ready ∧ (waiting 27).Empty ∧ (waiting 27).SinkAlwaysReturns ∧
    ∀ x ∈ [(PacketType.command, [(3 : Byte), 0x0C, 0], ([] : List Byte)), (.event, [0x13, 0], []),
      (.aclData, [0x40, 0x20, 0, 0], [])], ValidPacket (waiting 27).maxAclLen x.1 x.2.1 x.2.2 :=
  ⟨ready_waiting, empty_waiting _, fun _ h => (List.not_mem_nil h).elim, by
    simp only [List.mem_cons, List.not_mem_nil, or_false, forall_eq_or_imp, forall_eq]
    exact ⟨valid_packets.1, valid_packets.2.2.1, valid_packets.2.2.2.2.1⟩⟩

theorem witness_PacketsAreInInput :
    (waiting 27).Empty ∧ ∃ t, feed [0, 4, 0x13, 0] (waiting 27) = .next t := ⟨empty_waiting _, _, rfl⟩

/-- The first and the last proper beginning. -/
theorem witness_PartialPacketResumable :
    (waiting 27).Ready ∧ (waiting 27).Empty ∧ ValidPacket (waiting 27).maxAclLen .event [0x13, 0] [] ∧ 0 < 1 ∧
    1 < (frame (waiting 27).cfg .event ([0x13, 0] ++ [])).length ∧
    2 < (frame (waiting 27).cfg .event ([0x13, 0] ++ [])).length :=
  ⟨ready_waiting, empty_waiting _, valid_packets.2.2.1, by decide, by decide, by decide⟩

theorem witness_ReturnsToAwaitingMarker :
    event5.Inv ∧ event5.Ready ∧ event5.SinkAlwaysReturns ∧
    (∀ n, event5.explen = some n → n.toNat ≤ max 258 (4 + event5.maxAclLen.toNat)) ∧
    1 + max 258 (4 + event5.maxAclLen.toNat) ≤ (List.replicate 259 (4 : Byte)).length :=
  ⟨inv_event5, ready_inPayload _ _ _ _, fun _ h => (List.not_mem_nil h).elim, fun n h => by cases h; decide, by
    rw [List.length_replicate]; decide⟩

end Sys2Proof.Tests
end

section
/-! SUPPORT and settlement of O40. The encoder reads the four markers and `TX_CAP` of the configuration and nothing
else (R36), so two states that agree on these get the same frames. -/

namespace Sys2Proof.Machine

/-! ## What the encoder reads of the configuration does not depend on `BUF_CAP` -/

@[simp] theorem encoderConfigOk_bufCap (c : Config) (n : Nat) :
    encoderConfigOk { c with bufCap := n } = encoderConfigOk c := rfl

@[simp] theorem fitsTx_bufCap (c : Config) (n m : Nat) : fitsTx { c with bufCap := n } m = fitsTx c m := rfl

@[simp] theorem frame_bufCap (c : Config) (n : Nat) (q : PacketType) (bytes : List Byte) :
    frame { c with bufCap := n } q bytes = frame c q bytes := by
  cases q <;> rfl

@[simp] theorem isFrame_bufCap (c : Config) (n : Nat) (bytes : List Byte) :
    isFrame { c with bufCap := n } bytes = isFrame c bytes := by
  cases bytes <;> rfl

/-! ## The operations -/

/-- TXFRAME answers exactly for a frame under a legal configuration, and hands it over whole (R147). -/
theorem execTxFrame_next {s t : State} {bytes : List Byte} :
    execTxFrame bytes s = .next t ↔
      encoderConfigOk s.cfg = true ∧ isFrame s.cfg bytes = true ∧ t = s.logFrame bytes := by
  unfold execTxFrame
  by_cases hok : encoderConfigOk s.cfg = true
  · by_cases hf : isFrame s.cfg bytes = true <;> simp [hok, hf, eq_comm]
  · simp [hok]

/-- Whatever `op` answers in `s`, it only adds to the transmit stream, and it adds the same in `u`. -/
def EmitsAlike (op : State → Result) (s u : State) : Prop :=
  ∀ t, op s = .next t →
    ∃ out, t = { s with transmitted := s.transmitted ++ out } ∧
      op u = .next { u with transmitted := u.transmitted ++ out }

section
variable {s u : State} (hc : u.cfg = { s.cfg with bufCap := u.cfg.bufCap })
include hc

/-- Both states pass the same checks, so both emit the one frame or both emit nothing (R140, R141). -/
theorem encodeFrame_emitsAlike (q : PacketType) (bytes : List Byte) : EmitsAlike (encodeFrame q bytes) s u := by
  intro t h
  obtain ⟨hok, rfl⟩ := encodeFrame_next.1 h
  have hok' : encoderConfigOk u.cfg = true := by rw [hc, encoderConfigOk_bufCap, hok]
  have hfits : fitsTx u.cfg (bytes.length + 1) = fitsTx s.cfg (bytes.length + 1) := by rw [hc, fitsTx_bufCap]
  have hframe : frame u.cfg q bytes = frame s.cfg q bytes := by rw [hc, frame_bufCap]
  by_cases hf : fitsTx s.cfg (bytes.length + 1) = true
  · refine ⟨[frame s.cfg q bytes], if_pos hf, encodeFrame_next.2 ⟨hok', ?_⟩⟩
    rw [hfits, if_pos hf, hframe]
    rfl
  · refine ⟨[], ?_, encodeFrame_next.2 ⟨hok', ?_⟩⟩
    · rw [if_neg hf, List.append_nil]
    · rw [hfits, if_neg hf, List.append_nil]

theorem execTxFrame_emitsAlike (bytes : List Byte) : EmitsAlike (execTxFrame bytes) s u := by
  intro t h
  obtain ⟨hok, hframe, rfl⟩ := execTxFrame_next.1 h
  refine ⟨[bytes], rfl, execTxFrame_next.2 ⟨?_, ?_, rfl⟩⟩
  · rw [hc, encoderConfigOk_bufCap, hok]
  · rw [hc, isFrame_bufCap, hframe]

/-- R36 for every encode operation: the field-level ones are ENC.FRAME on packed bytes (R144, R145, R146). -/
theorem exec_emitsAlike {i : Instr} (he : isEncoder i = true) : EmitsAlike (exec i) s u := by
  cases i <;> cases he
  case encFrame q bytes => exact encodeFrame_emitsAlike hc q bytes
  case encCmd opcode plen params => exact encodeFrame_emitsAlike hc .command (packCmd opcode plen ++ params)
  case encAcl handle pb bc dlen data => exact encodeFrame_emitsAlike hc .aclData (packAcl handle pb bc dlen ++ data)
  case encEvt code len data => exact encodeFrame_emitsAlike hc .event (packEvt code len ++ data)
  case txFrame bytes => exact execTxFrame_emitsAlike hc bytes

end

end Sys2Proof.Machine

namespace Sys2Proof

/-- Settles O40: each encode operation emits alike in two states whose configurations differ in `BUF_CAP` at most. -/
theorem encoderIsStateless : Obligations.EncoderIsStateless := by
  intro i s u t he hc h
  exact Machine.exec_emitsAlike hc he t h

end Sys2Proof
end

section
/-! SUPPORT and settlement of O15, O10, O12, O18, O24. Which operation R90 selects is said once for each of the three
states of the decoder; a ready decoder then runs the selected operation, asked for by name or through `STEP`. -/

namespace Sys2Proof.Machine

/-! ## Running the selected operation -/

/-- Each of the twelve byte operations is its effect, guarded by its selection. -/
theorem exec_byteInstr (op : StepOp) (b : Byte) (s : State) :
    exec (byteInstr op b) s = whenSelected s b op (runOp op b s) := by
  cases op <;> rfl

section
variable {s : State} {b : Byte} {op : StepOp} (hr : s.Ready) (hs : select s b = some op)
include hr hs

theorem exec_byteInstr_of_select : exec (byteInstr op b) s = runOp op b s := by
  rw [exec_byteInstr, whenSelected, whenReady_of_ready hr, if_pos hs]

theorem consumeByte_of_select : consumeByte b s = runOp op b s := by
  rw [consumeByte, whenReady_of_ready hr, hs]

/-- R90: `STEP` applies the operation that state and byte select. -/
theorem exec_stepByte_of_select : exec (.stepByte b) s = exec (byteInstr op b) s :=
  (consumeByte_of_select hr hs).trans (exec_byteInstr_of_select hr hs).symm

end

/-! ## The selection in `AwaitingMarker` -/

theorem select_awaitingMarker {s : State} (hst : s.st = .awaitingMarker) (b : Byte) :
    select s b = some (selectMarker s.cfg b) := by
  rw [select, hst]

/-- The operation selected by a marker of type `q` (R90). -/
def markOp : PacketType → StepOp
  | .command => .markCmd
  | .aclData => .markAcl
  | .event => .markEvt
  | .synchronousData => .markSync

theorem selectMarker_of_some {c : Config} {b : Byte} {q : PacketType} (h : typeOf c b = some q) :
    selectMarker c b = markOp q := by
  rw [selectMarker, h]
  cases q <;> rfl

theorem selectMarker_of_none {c : Config} {b : Byte} (h : typeOf c b = none) : selectMarker c b = .drop := by
  rw [selectMarker, h]

theorem runOp_markOp {q : PacketType} (hq : q ≠ .synchronousData) (b : Byte) (s : State) :
    runOp (markOp q) b s = .next (s.openPacket q) := by
  cases q with
  | command => rfl
  | aclData => rfl
  | event => rfl
  | synchronousData => exact absurd rfl hq

/-- A supported marker opens a packet of its type (R92, R93, R94). -/
theorem exec_markOp_marker {s : State} (hr : s.Ready) (hst : s.st = .awaitingMarker) {q : PacketType}
    (hq : q ≠ .synchronousData) :
    exec (byteInstr (markOp q) (marker s.cfg q)) s = .next (s.openPacket q) := by
  have hsel : select s (marker s.cfg q) = some (markOp q) := by
    rw [select_awaitingMarker hst, selectMarker_of_some (typeOf_marker hr.limits.1 q)]
  rw [exec_byteInstr_of_select hr hsel, runOp_markOp hq]

/-! ## The selection inside a packet -/

/-- Which header byte is next decides between storing it and ending the header; `1 ≤ cnt ≤ H` by R26. -/
theorem select_accumulatingHeader {s : State} (hst : s.st = .accumulatingHeader) {t : PacketType} {h : Nat}
    (hmk : s.mkTag = some t) (hsize : headerSize t = some h) (hlow : 1 ≤ s.cnt.toNat) (hhigh : s.cnt.toNat ≤ h)
    (b : Byte) : select s b = if s.cnt.toNat < h then some .hdrAcc else headerEndOp t := by
  have hcnt : s.cnt.toNat ≠ 0 := by omega
  rw [select, hst, hmk]
  simp only [selectHeader, hsize, if_neg hcnt]
  by_cases hlt : s.cnt.toNat < h
  · rw [if_pos hlt, if_pos hlt]
  · rw [if_neg hlt, if_neg hlt, if_pos (by omega)]

/-- Whether a byte remains after this one decides between storing it and ending the packet; `cnt < explen` by R26. -/
theorem select_accumulatingPayload {s : State} (hst : s.st = .accumulatingPayload) {n : U16}
    (hn : s.explen = some n) (hlt : s.cnt.toNat < n.toNat) (b : Byte) :
    select s b = if s.cnt.toNat + 1 < n.toNat then some .payAcc else some .payEnd := by
  rw [select, hst, hn]
  simp only [selectPayload]
  by_cases hmore : s.cnt.toNat + 1 < n.toNat
  · rw [if_pos hmore, if_pos hmore]
  · rw [if_neg hmore, if_neg hmore, if_pos (by omega)]

theorem State.Inv.inHeader {s : State} (hi : s.Inv) (hst : s.st = .accumulatingHeader) : ∃ t h, s.InHeader t h := by
  have hrow := hi.row
  rwa [State.Row, hst] at hrow

theorem State.Inv.inPayload {s : State} (hi : s.Inv) (hst : s.st = .accumulatingPayload) :
    ∃ t h n len, s.InPayload t h n len := by
  have hrow := hi.row
  rwa [State.Row, hst] at hrow

/-- With no `Dispatch` outstanding a payload state waits for at least one more byte. -/
theorem State.InPayload.cnt_lt {s : State} {t : PacketType} {h : Nat} {n len : U16} (hp : s.InPayload t h n len)
    (hb : s.busy = false) : s.cnt.toNat < n.toNat := by
  have hhigh := hp.high
  rwa [if_neg (by simp [hb])] at hhigh

/-- `H(SynchronousData)` is not defined (R66), so a type with a header size is a supported one. -/
theorem ne_synchronousData_of_headerSize {t : PacketType} {h : Nat} (hsize : headerSize t = some h) :
    t ≠ .synchronousData := by
  rintro rfl
  cases hsize

theorem headerSize_le {t : PacketType} {h : Nat} (hsize : headerSize t = some h) : h ≤ 4 := by
  cases t <;> cases hsize <;> decide

/-! ## Storing a byte and counting it -/

/-- What `HDR.ACC` and `PAY.ACC` share (R97, R105): `b` goes to index `a`, `cnt` rises by one without wrapping, nothing
else changes. -/
theorem storeAndCount {s : State} {a : Nat} {b : Byte} (ha : a < s.cfg.bufCap) (hc : s.cnt.toNat < 65535) :
    ∃ u, chain (storeByte s a b) (fun s1 => .next (s1.setCnt (s1.cnt + 1))) = .next u ∧
      u = { s with cnt := s.cnt + 1, buf := u.buf } ∧ u.cnt.toNat = s.cnt.toNat + 1 ∧ u.buf.lookup a = some b ∧
      ∀ a', a' ≠ a → u.buf.lookup a' = s.buf.lookup a' := by
  refine ⟨(s.putByte a b).setCnt (s.cnt + 1), ?_, rfl, ?_, ?_, ?_⟩
  · rw [storeByte_of_lt ha]
    rfl
  · have hcnt : (s.cnt + 1).toNat = s.cnt.toNat + 1 := by
      rw [BitVec.toNat_add]
      exact Nat.mod_eq_of_lt (by simpa using Nat.succ_lt_succ hc)
    exact hcnt
  · exact lookup_write_same s.buf a b
  · exact fun a' hne => lookup_write_ne s.buf b hne

end Sys2Proof.Machine

namespace Sys2Proof

open Machine

section
variable {s : State} {b : Byte} (hr : s.Ready)
include hr

/-- R90 in `AwaitingMarker`. -/
theorem stepByte_awaitingMarker (hst : s.st = .awaitingMarker) :
    exec (.stepByte b) s =
      if typeOf s.cfg b = some .command then exec (.markCmd b) s
      else if typeOf s.cfg b = some .aclData then exec (.markAcl b) s
      else if typeOf s.cfg b = some .event then exec (.markEvt b) s
      else if typeOf s.cfg b = some .synchronousData then exec (.markSync b) s
      else exec (.drop b) s := by
  rw [exec_stepByte_of_select hr (select_awaitingMarker hst b)]
  cases htype : typeOf s.cfg b with
  | none => rw [selectMarker_of_none htype]; rfl
  | some q => rw [selectMarker_of_some htype]; cases q <;> rfl

/-- R90 in `AccumulatingHeader`; the type of a state of R26 is never `SynchronousData` or `NONE`. -/
theorem stepByte_accumulatingHeader (hst : s.st = .accumulatingHeader) {t : PacketType} {h : Nat}
    (hh : s.InHeader t h) :
    exec (.stepByte b) s =
      if s.mkTag = some .synchronousData ∨ s.mkTag = none then exec (.hdrRejSync b) s
      else if s.cnt.toNat < h then exec (.hdrAcc b) s
      else if s.mkTag = some .command then exec (.hdrEndCmd b) s
      else if s.mkTag = some .event then exec (.hdrEndEvt b) s
      else exec (.hdrEndAcl b) s := by
  have hsel := select_accumulatingHeader hst hh.packet hh.size hh.low hh.high b
  have hsync := ne_synchronousData_of_headerSize hh.size
  rw [hh.packet, if_neg (by simp [hsync])]
  by_cases hlt : s.cnt.toNat < h
  · rw [if_pos hlt] at hsel ⊢
    exact exec_stepByte_of_select hr hsel
  · rw [if_neg hlt] at hsel ⊢
    cases t with
    | command => exact exec_stepByte_of_select hr hsel
    | aclData => exact exec_stepByte_of_select hr hsel
    | event => exact exec_stepByte_of_select hr hsel
    | synchronousData => exact absurd rfl hsync

/-- R90 in `AccumulatingPayload`. -/
theorem stepByte_accumulatingPayload (hst : s.st = .accumulatingPayload) {n : U16} (hn : s.explen = some n)
    (hlt : s.cnt.toNat < n.toNat) :
    exec (.stepByte b) s =
      if s.cnt.toNat + 1 < n.toNat then exec (.payAcc b) s else exec (.payEnd b) s := by
  have hsel := select_accumulatingPayload hst hn hlt b
  by_cases hmore : s.cnt.toNat + 1 < n.toNat
  · rw [if_pos hmore] at hsel ⊢
    exact exec_stepByte_of_select hr hsel
  · rw [if_neg hmore] at hsel ⊢
    exact exec_stepByte_of_select hr hsel

end

/-- Settles O15, one clause for each state of the decoder; the invariant gives the place inside the packet. -/
theorem stepSelectsOperation : Obligations.StepSelectsOperation := by
  intro s b hi hr
  refine ⟨stepByte_awaitingMarker hr, fun hst h hdef => ?_, fun hst n hn => ?_⟩
  · obtain ⟨t, k, hh⟩ := hi.inHeader hst
    have hsize := hdef t hh.packet (ne_synchronousData_of_headerSize hh.size)
    obtain rfl : k = h := Option.some.inj (hh.size.symm.trans hsize)
    exact stepByte_accumulatingHeader hr hst hh
  · obtain ⟨t, h, m, len, hp⟩ := hi.inPayload hst
    obtain rfl : m = n := Option.some.inj (hp.explen.symm.trans hn)
    exact stepByte_accumulatingPayload hr hst hn (hp.cnt_lt hr.idle)

/-- Settles O10: each supported marker selects its own operation (R61), which opens the packet. -/
theorem markersOpenPackets : Obligations.MarkersOpenPackets := by
  intro s hr hst
  have hopen {q : PacketType} (hq : q ≠ .synchronousData) := exec_markOp_marker hr hst hq
  exact ⟨hopen (q := .command) nofun, hopen (q := .aclData) nofun, hopen (q := .event) nofun⟩

/-- Settles O12: such a byte selects `DROP`, and the row `NOT_A_MARKER` consumes it as `STEP` does. -/
theorem unrecognisedByteDropped : Obligations.UnrecognisedByteDropped := by
  intro s b hr hst htype
  have hsel : select s b = some .drop := by rw [select_awaitingMarker hst, selectMarker_of_none htype]
  have hrow : exec (.notAMarker b) s = consumeByte b s := if_pos (by rw [htype]; rfl)
  exact ⟨exec_byteInstr_of_select hr hsel, hrow.trans (consumeByte_of_select hr hsel)⟩

/-- Settles O18: a header has at most four bytes, so `cnt - 1` is an index of `BUF` and `cnt` does not wrap. -/
theorem headerByteStored : Obligations.HeaderByteStored := by
  intro s b t h hr hst hmk hsize hlow hlt
  have hsel := select_accumulatingHeader hst hmk hsize hlow hlt.le b
  rw [if_pos hlt] at hsel
  have hrun : exec (.hdrAcc b) s = opHdrAcc b s := exec_byteInstr_of_select hr hsel
  have hh := headerSize_le hsize
  obtain ⟨_, hcap, _, _⟩ := hr.limits
  rw [hrun]
  exact storeAndCount (by omega) (by omega)

/-- Settles O24: the payload fits `BUF`, so `cnt` is an index of it, and `cnt` stays below the 16-bit `explen`. -/
theorem payloadByteStored : Obligations.PayloadByteStored := by
  intro s b n hr hst hn hfits hlt
  have hsel := select_accumulatingPayload hst hn (by omega) b
  rw [if_pos hlt] at hsel
  have hrun : exec (.payAcc b) s = opPayAcc b s := exec_byteInstr_of_select hr hsel
  have hmax := n.isLt
  rw [hrun]
  exact storeAndCount (by omega) (by omega)

end Sys2Proof
end

section
/-! SUPPORT and settlement of O28. Of the sink's plan an operation learns only whether the sink returns (R127, R128).
So before a sink that always returns each operation commutes with forgetting the plan, and two runs under two such plans
are both the run under no plan at all. -/

namespace Sys2Proof.Machine

/-! ## Forgetting the plan -/

/-- `s` before a sink with nothing planned, which returns from every `Dispatch`. -/
def State.planless (s : State) : State := { s with sinkPlan := [] }

@[simp] theorem State.planless_mkTag (s : State) : s.planless.mkTag = s.mkTag := rfl
@[simp] theorem State.planless_explen (s : State) : s.planless.explen = s.explen := rfl
@[simp] theorem State.planless_buf (s : State) : s.planless.buf = s.buf := rfl
@[simp] theorem State.planless_busy (s : State) : s.planless.busy = s.busy := rfl
@[simp] theorem State.planless_cfg (s : State) : s.planless.cfg = s.cfg := rfl
@[simp] theorem State.planless_rxq (s : State) : s.planless.rxq = s.rxq := rfl
@[simp] theorem State.planless_srcAns (s : State) : s.planless.srcAns = s.srcAns := rfl
@[simp] theorem State.planless_srcTurn (s : State) : s.planless.srcTurn = s.srcTurn := rfl
@[simp] theorem State.planless_notReady (s : State) : s.planless.notReady = s.notReady := rfl
@[simp] theorem State.planless_notIdle (s : State) : s.planless.notIdle = s.notIdle := rfl

/-- States that are equal once the plan is forgotten differ in the plan alone. -/
theorem State.eq_of_planless_eq {s u : State} (h : s.planless = u.planless) : s = { u with sinkPlan := s.sinkPlan } :=
  congrArg (fun v : State => { v with sinkPlan := s.sinkPlan }) h

theorem State.SinkAlwaysReturns.sinkReturns {s : State} (h : s.SinkAlwaysReturns) : s.SinkReturns := by
  unfold State.SinkReturns State.sinkAnswer
  cases hp : s.sinkPlan with
  | nil => nofun
  | cons a r => exact h a (by simp [hp])

/-- The one place where the plan is asked: the sink returns, and what it returns is not kept. -/
theorem State.SinkAlwaysReturns.logDispatch_planless {s : State} (h : s.SinkAlwaysReturns) (p : Packet) :
    s.planless.logDispatch p = (s.logDispatch p).planless := by
  have hblocks : s.planless.sinkBlocks = s.sinkBlocks := h.sinkReturns.sinkBlocks.symm
  simp only [State.logDispatch, hblocks]
  rfl

theorem srcGetOp_planless (s : State) : srcGetOp s.planless = (srcGetOp s).planless := by
  simp only [srcGetOp, State.planless_srcTurn, State.planless_rxq, apply_ite State.planless]
  cases s.rxq <;> rfl

/-! ## Operations that are blind to the plan -/

/-- Before a sink that always returns, `op` answers the same with the plan as without it. -/
def PlanBlind (op : State → Result) : Prop :=
  ∀ s, s.SinkAlwaysReturns → op s.planless = mapNext State.planless (op s)

theorem planBlind_next {f : State → State} (hf : ∀ s, f s.planless = (f s).planless) :
    PlanBlind fun s => .next (f s) :=
  fun s _ => congrArg Host.Outcome.next (hf s)

theorem planBlind_refused (r : Refusal) : PlanBlind fun _ => .refused r := fun _ _ => rfl

theorem PlanBlind.ite {c : State → Prop} [DecidablePred c] {f g : State → Result} (hc : ∀ s, c s.planless ↔ c s)
    (hf : PlanBlind f) (hg : PlanBlind g) : PlanBlind fun s => if c s then f s else g s := by
  intro s hs
  by_cases h : c s
  · simpa only [if_pos h, if_pos ((hc s).2 h)] using hf s hs
  · simpa only [if_neg h, if_neg (mt (hc s).1 h)] using hg s hs

theorem PlanBlind.whenReady {f : State → Result} (hf : PlanBlind f) : PlanBlind fun s => whenReady s (f s) := by
  intro s hs
  unfold Machine.whenReady
  beta_reduce
  rw [State.planless_notReady]
  cases s.notReady with
  | some e => rfl
  | none => exact hf s hs

theorem PlanBlind.whenIdle {f : State → Result} (hf : PlanBlind f) : PlanBlind fun s => whenIdle s (f s) := by
  intro s hs
  unfold Machine.whenIdle
  beta_reduce
  rw [State.planless_notIdle]
  cases s.notIdle with
  | some e => rfl
  | none => exact hf s hs

/-- What follows an answer may be blind only before a sink that still always returns. -/
theorem PlanBlind.chain_mapNext {o : Result} {g : State → Result} (hg : PlanBlind g)
    (ho : ∀ u, o = .next u → u.SinkAlwaysReturns) :
    chain (mapNext State.planless o) g = mapNext State.planless (chain o g) := by
  cases o with
  | next u => exact hg u (ho u rfl)
  | fault r => rfl
  | refused r => rfl

/-! ## The byte step -/

theorem planBlind_emitDispatch : PlanBlind emitDispatch := by
  intro s hs
  simp only [emitDispatch, State.planless_mkTag, State.planless_explen, State.planless_cfg, State.planless_buf]
  cases s.mkTag with
  | none => rfl
  | some t =>
    cases s.explen with
    | none => rfl
    | some n =>
      simp only [apply_ite (mapNext State.planless), mapNext_next, mapNext_fault, mapNext_refused,
        hs.logDispatch_planless]

theorem planBlind_completeOp : PlanBlind completeOp := by
  intro s hs
  rw [completeOp, planBlind_emitDispatch s hs]
  refine Machine.chain_mapNext _ _ fun u => ?_
  simp only [State.planless_busy, mapNext_next, apply_ite State.planless]
  rfl

theorem planBlind_acceptHeader (h len : U16) : PlanBlind (acceptHeader h len) :=
  .ite (fun _ => Iff.rfl) (fun s hs => planBlind_completeOp (s.enterPayload (h + len) h) hs)
    (planBlind_next fun _ => rfl)

theorem planBlind_storeByte (a : Nat) (b : Byte) : PlanBlind fun s => storeByte s a b :=
  .ite (fun _ => Iff.rfl) (planBlind_next fun _ => rfl) fun _ _ => rfl

/-- Storing a byte does not ask the sink, so an operation that begins with it is as blind as what follows. -/
theorem PlanBlind.store {g : State → Result} (hg : PlanBlind g) (a : State → Nat) (ha : ∀ s, a s.planless = a s)
    (b : Byte) : PlanBlind fun s => chain (storeByte s (a s) b) g := by
  intro s hs
  have hstore : storeByte s.planless (a s) b = mapNext State.planless (storeByte s (a s) b) :=
    planBlind_storeByte (a s) b s hs
  simp only [ha, hstore]
  refine hg.chain_mapNext fun u hu => ?_
  obtain ⟨_, rfl⟩ := storeByte_next.1 hu
  exact hs

theorem planBlind_runOp (op : StepOp) (b : Byte) : PlanBlind (runOp op b) := by
  have hcount : PlanBlind fun s => .next (s.setCnt (s.cnt + 1)) := planBlind_next fun _ => rfl
  cases op with
  | drop => exact planBlind_next fun _ => rfl
  | markCmd => exact planBlind_next fun _ => rfl
  | markAcl => exact planBlind_next fun _ => rfl
  | markEvt => exact planBlind_next fun _ => rfl
  | markSync => exact planBlind_next fun _ => rfl
  | hdrRejSync => exact planBlind_next fun _ => rfl
  | hdrAcc => exact hcount.store (fun s => s.cnt.toNat - 1) (fun _ => rfl) b
  | payAcc => exact hcount.store (fun s => s.cnt.toNat) (fun _ => rfl) b
  | payEnd =>
    have hend : PlanBlind fun s => completeOp (s.setCnt (s.cnt + 1)) :=
      fun s => planBlind_completeOp (s.setCnt (s.cnt + 1))
    exact hend.store (fun s => s.cnt.toNat) (fun _ => rfl) b
  | hdrEndCmd =>
    have hend : PlanBlind fun s => acceptHeader 3 (lenCommand s.buf) (s.setCnt 4) :=
      fun s => planBlind_acceptHeader 3 (lenCommand s.buf) (s.setCnt 4)
    exact hend.store (fun _ => 2) (fun _ => rfl) b
  | hdrEndEvt =>
    have hend : PlanBlind fun s => acceptHeader 2 (lenEvent s.buf) (s.setCnt 3) :=
      fun s => planBlind_acceptHeader 2 (lenEvent s.buf) (s.setCnt 3)
    exact hend.store (fun _ => 1) (fun _ => rfl) b
  | hdrEndAcl =>
    have haccept : PlanBlind fun s => acceptHeader 4 (lenAcl s.buf) (s.setCnt 5) :=
      fun s => planBlind_acceptHeader 4 (lenAcl s.buf) (s.setCnt 5)
    have hend := PlanBlind.ite (c := fun s => s.maxAclLen.toNat < (lenAcl s.buf).toNat) (fun _ => Iff.rfl)
      (planBlind_next (f := fun s => resyncOp .oversizedLength (s.setCnt 5)) fun _ => rfl) haccept
    exact hend.store (fun _ => 3) (fun _ => rfl) b

theorem planBlind_consumeByte (b : Byte) : PlanBlind (consumeByte b) := by
  refine PlanBlind.whenReady fun s hs => ?_
  rw [show select s.planless b = select s b from rfl]
  cases select s b with
  | none => rfl
  | some op => exact planBlind_runOp op b s hs

/-! ## The drain loop -/

theorem PlanBlind.afterStep {next : State → Result} (h : PlanBlind next) (remaining : U16) :
    PlanBlind (afterStep remaining next) :=
  .ite (fun _ => Iff.rfl) (planBlind_next fun _ => rfl) (.ite (fun _ => Iff.rfl) (planBlind_next fun _ => rfl) h)

/-- Every iteration hands a state to the next one whose sink still always returns. -/
theorem planBlind_drainLoop (fuel : Nat) : PlanBlind (drainLoop fuel) := by
  induction fuel with
  | zero => exact planBlind_next fun _ => rfl
  | succ fuel ih =>
    intro s hs
    have hs' : (srcGetOp s).SinkAlwaysReturns := by rwa [State.SinkAlwaysReturns, srcGetOp_sinkPlan]
    simp only [drainLoop, srcGetOp_planless, State.planless_srcAns]
    by_cases hok : (srcGetOp s).srcAns.status = .ok
    · rw [if_pos hok, if_pos hok, planBlind_consumeByte _ _ hs']
      refine (ih.afterStep _).chain_mapNext fun u hu => ?_
      obtain ⟨hr, _⟩ := consumeByte_next.1 hu
      exact (consumeByte_returns hr hs' hu).2
    · rw [if_neg hok, if_neg hok, mapNext_next]

/-! ## Every instruction -/

theorem planBlind_exec_byteInstr (op : StepOp) (b : Byte) : PlanBlind (exec (byteInstr op b)) := by
  rw [funext (exec_byteInstr op b)]
  exact .whenReady (.ite (fun _ => Iff.rfl) (planBlind_runOp op b) (planBlind_refused _))

theorem PlanBlind.whenCompleting {f : State → Result} (hf : PlanBlind f) :
    PlanBlind fun s => whenCompleting s (f s) :=
  .whenReady (.ite (fun _ => Iff.rfl) hf (planBlind_refused _))

theorem planBlind_encodeFrame (q : PacketType) (bytes : List Byte) : PlanBlind (encodeFrame q bytes) :=
  .ite (fun _ => Iff.rfl) (planBlind_refused _)
    (.ite (fun _ => Iff.rfl) (planBlind_next fun _ => rfl) (planBlind_next fun _ => rfl))

/-- R127 for every instruction: the sink is asked in `emitDispatch` alone. -/
theorem planBlind_exec (i : Instr) : PlanBlind (exec i) := by
  cases i with
  | hciCmd => exact fun s => planBlind_consumeByte (marker s.cfg .command) s
  | hciAcl => exact fun s => planBlind_consumeByte (marker s.cfg .aclData) s
  | hciSync => exact fun s => planBlind_consumeByte (marker s.cfg .synchronousData) s
  | hciEvt => exact fun s => planBlind_consumeByte (marker s.cfg .event) s
  | notAMarker b => exact .ite (fun _ => Iff.rfl) (planBlind_consumeByte b) (planBlind_refused _)
  | stepByte b => exact planBlind_consumeByte b
  | drop b => exact planBlind_exec_byteInstr .drop b
  | markCmd b => exact planBlind_exec_byteInstr .markCmd b
  | markAcl b => exact planBlind_exec_byteInstr .markAcl b
  | markEvt b => exact planBlind_exec_byteInstr .markEvt b
  | markSync b => exact planBlind_exec_byteInstr .markSync b
  | hdrAcc b => exact planBlind_exec_byteInstr .hdrAcc b
  | hdrRejSync b => exact planBlind_exec_byteInstr .hdrRejSync b
  | hdrEndCmd b => exact planBlind_exec_byteInstr .hdrEndCmd b
  | hdrEndEvt b => exact planBlind_exec_byteInstr .hdrEndEvt b
  | hdrEndAcl b => exact planBlind_exec_byteInstr .hdrEndAcl b
  | payAcc b => exact planBlind_exec_byteInstr .payAcc b
  | payEnd b => exact planBlind_exec_byteInstr .payEnd b
  | complete => exact planBlind_completeOp.whenCompleting
  | resync cause => exact .whenReady (planBlind_next fun _ => rfl)
  | srcGet => exact .whenIdle (planBlind_next srcGetOp_planless)
  | drain => exact .whenReady fun s => planBlind_drainLoop (s.supply + 1) s
  | dispatch => exact planBlind_emitDispatch.whenCompleting
  | encFrame q bytes => exact planBlind_encodeFrame q bytes
  | encCmd opcode plen params => exact planBlind_encodeFrame .command (packCmd opcode plen ++ params)
  | encAcl handle pb bc dlen data => exact planBlind_encodeFrame .aclData (packAcl handle pb bc dlen ++ data)
  | encEvt code len data => exact planBlind_encodeFrame .event (packEvt code len ++ data)
  | txFrame bytes =>
    exact .ite (fun _ => Iff.rfl) (planBlind_refused _)
      (.ite (fun _ => Iff.rfl) (planBlind_next fun _ => rfl) (planBlind_refused _))
  | reset => exact .whenIdle (planBlind_next fun _ => rfl)
  | config v =>
    exact .ite (fun _ => Iff.rfl) (planBlind_refused _) (.ite (fun _ => Iff.rfl) (planBlind_refused _)
      (.ite (fun _ => Iff.rfl) (planBlind_next fun _ => rfl) (planBlind_next fun _ => rfl)))

end Sys2Proof.Machine

namespace Sys2Proof

open Machine

/-- Settles O28: both runs are the run without a plan, so their answers agree once the plan is forgotten. -/
theorem sinkResultIgnored : Obligations.SinkResultIgnored := by
  intro i s t p q hp hq h
  have hrun : exec i s.planless = .next t.planless :=
    (planBlind_exec i { s with sinkPlan := p } hp).trans (congrArg (mapNext State.planless) h)
  have hmap : mapNext State.planless (exec i { s with sinkPlan := q }) = .next t.planless :=
    (planBlind_exec i { s with sinkPlan := q } hq).symm.trans hrun
  obtain ⟨u, hu, hplan⟩ := chain_next.1 hmap
  exact ⟨u, hu, State.eq_of_planless_eq (Host.Outcome.next.inj hplan).symm⟩

end Sys2Proof
end

section
/-! SUPPORT and settlement of O33. On an empty `RXQ` a healthy source answers `NoData`, which ends the loop of R122
before any `STEP`; a machine with nothing pending and nothing to consume is at rest. -/

namespace Sys2Proof.Machine

theorem srcGetOp_of_empty {s : State} (hq : s.rxq = []) (he : s.srcTurn.error = false) :
    srcGetOp s = s.answerNone .noData s.srcTurn.arrive := by
  simp [srcGetOp, hq, he]

/-- The loop ends with the first answer that brings no byte (R123, R124). -/
theorem exec_drain_of_no_byte {s : State} (hr : s.Ready) (hans : (srcGetOp s).srcAns.status ≠ .ok) :
    exec .drain s = .next (srcGetOp s) :=
  (whenReady_of_ready hr _).trans (if_neg hans)

/-- With nothing pending and nothing to consume a step changes nothing (R229). -/
theorem step_at_rest {s : State} (ha : s.agenda = []) (hq : s.rxq = []) : step s = .next s := by
  have hs : step s = runStream s := by rw [step, ha]
  rw [hs, runStream, if_pos hq, ite_self]

theorem steps_of_step_eq_self {s : State} (h : step s = .next s) (k : Nat) : steps k s = .next s := by
  induction k with
  | zero => rfl
  | succ k ih => rw [steps, h, chain_next_left, ih]

end Sys2Proof.Machine

namespace Sys2Proof

open Machine

/-- Settles O33: `DRAIN` is the one `SrcGet` that answers `NoData`, and the decoder rests while nothing arrives. -/
theorem drainOfEmptyQueueKeepsState : Obligations.DrainOfEmptyQueueKeepsState := by
  intro s hr hq he
  have hsrc := srcGetOp_of_empty hq he
  have hdrain := exec_drain_of_no_byte hr (by rw [hsrc]; nofun)
  rw [hsrc] at hdrain
  exact ⟨_, hdrain, rfl, rfl, fun k ha => steps_of_step_eq_self (step_at_rest ha hq) k⟩

end Sys2Proof
end

section
/-! SUPPORT and settlement of O21, O22, O23, O25, O26, O27, O29. The three header-completing operations are one
operation over the packet type, and every completing step ends in one hand-over of the packet (R102), whose outcome the
sink decides. -/

namespace Sys2Proof.Machine

/-! ## Handing a packet over -/

/-- The outcome of a completing step: `m` is `BUF`, `n` the packet's length. A sink that returns leaves the empty state
(R102), one that does not leaves the decoder inside the emit (R128). -/
def State.handOver (s : State) (m : Memory) (n : U16) (p : Packet) : State :=
  if s.sinkBlocks = true then s.insideEmit m n p
  else { s with
    mkTag := none, cnt := 0, explen := none, st := .awaitingMarker, buf := m, dispatched := s.dispatched ++ [p],
    sinkPlan := s.sinkPlan.tail }

theorem State.SinkReturns.handOver {s : State} (h : s.SinkReturns) (m : Memory) (n : U16) (p : Packet) :
    s.handOver m n p =
      { s with
        mkTag := none, cnt := 0, explen := none, st := .awaitingMarker, buf := m, dispatched := s.dispatched ++ [p],
        sinkPlan := s.sinkPlan.tail } :=
  if_neg (by simp [h.sinkBlocks])

theorem handOver_of_never {s : State} (h : s.sinkAnswer = .never) (m : Memory) (n : U16) (p : Packet) :
    s.handOver m n p = s.insideEmit m n p :=
  if_pos (sinkBlocks_iff.2 h)

/-- COMPLETE on the state it is entered with (R102). -/
theorem completeOp_eq_handOver {s : State} {t : PacketType} {h : Nat} {n : U16} (hst : s.st = .accumulatingPayload)
    (hmk : s.mkTag = some t) (hsize : headerSize t = some h) (hn : s.explen = some n) (hcnt : s.cnt = n)
    (hfits : n.toNat ≤ s.cfg.bufCap) (hb : s.busy = false) :
    completeOp s = .next (s.handOver s.buf n (packetOf s t n)) := by
  rw [completeOp_eq hmk hsize hn hfits]
  congr 1
  unfold State.handOver State.insideEmit State.logDispatch State.emptied
  cases hblocks : s.sinkBlocks with
  | true => simp [hst, hn, hcnt]
  | false => simp [hb]

/-! ## The tail of a header-completing step (R99, R100, R101) -/

section
variable {s : State} {t : PacketType} {h : Nat} {k len : U16} (hk : k.toNat = h) (hfits : h + len.toNat ≤ s.cfg.bufCap)
  (hcap : s.cfg.bufCap ≤ 65535)
include hk hfits hcap

/-- A header that declares no payload completes the packet in the same step (D13). -/
theorem acceptHeader_of_no_payload (hmk : s.mkTag = some t) (hsize : headerSize t = some h) (hb : s.busy = false)
    (hlen : len.toNat = 0) :
    acceptHeader k len s = .next (s.handOver s.buf k (packetOf s t k)) := by
  have hadd : k = k + len := (add_len_eq_self (by omega)).2 hlen
  rw [acceptHeader, if_pos hadd, ← hadd,
    completeOp_eq_handOver (s := s.enterPayload k k) rfl hmk hsize rfl rfl (by rw [State.enterPayload_cfg]; omega) hb]
  rfl

/-- Any other header enters the payload, with the sum of header size and declared length in `explen`. -/
theorem acceptHeader_of_payload (hlen : len.toNat ≠ 0) :
    acceptHeader k len s = .next (s.enterPayload (k + len) k) ∧ (k + len).toNat = h + len.toNat := by
  have hadd : k ≠ k + len := mt (add_len_eq_self (by omega)).1 hlen
  refine ⟨by rw [acceptHeader, if_neg hadd], ?_⟩
  rw [BitVec.toNat_add, hk]
  exact Nat.mod_eq_of_lt (by omega)

end

/-! ## The last header byte -/

theorem headerSize_range {t : PacketType} {h : Nat} (hsize : headerSize t = some h) : 1 ≤ h ∧ h ≤ 4 := by
  cases t <;> cases hsize <;> decide

/-- The header-completing operations, over the packet type: the byte goes to the last index of the header, an oversized
`AclData` length is rejected, any other is accepted. -/
theorem runOp_headerEnd {s : State} {t : PacketType} {h : Nat} {op : StepOp} (hsize : headerSize t = some h)
    (hop : headerEndOp t = some op) (hcap : 4 ≤ s.cfg.bufCap) (b : Byte) :
    ∃ len, lenField (s.buf.write (h - 1) b) t = some len ∧ (t ≠ .aclData → len.toNat ≤ 255) ∧
      runOp op b s =
        if t = .aclData ∧ s.maxAclLen.toNat < len.toNat then .next (s.putByte (h - 1) b).emptied
        else acceptHeader (BitVec.ofNat 16 h) len ((s.putByte (h - 1) b).setCnt (BitVec.ofNat 16 (h + 1))) := by
  cases t with
  | command =>
    cases hsize; cases hop
    refine ⟨_, rfl, fun _ => ?_, ?_⟩
    · have := ((s.buf.write 2 b).byte 2).isLt
      simp only [lenCommand, BitVec.toNat_setWidth]
      omega
    · rw [if_neg (by simp)]
      simp only [runOp, opHdrEndCmd, storeByte_of_lt (show 2 < s.cfg.bufCap by omega)]
      rfl
  | event =>
    cases hsize; cases hop
    refine ⟨_, rfl, fun _ => ?_, ?_⟩
    · have := ((s.buf.write 1 b).byte 1).isLt
      simp only [lenEvent, BitVec.toNat_setWidth]
      omega
    · rw [if_neg (by simp)]
      simp only [runOp, opHdrEndEvt, storeByte_of_lt (show 1 < s.cfg.bufCap by omega)]
      rfl
  | aclData =>
    cases hsize; cases hop
    refine ⟨_, rfl, fun hne => absurd rfl hne, ?_⟩
    simp only [runOp, opHdrEndAcl, storeByte_of_lt (show 3 < s.cfg.bufCap by omega), chain_next_left, true_and]
    rfl
  | synchronousData => cases hsize

/-- What is accepted fits `BUF`: 8-bit lengths by `BUF_CAP ≥ 258`, an `AclData` length by `4 + MAX_ACL_LEN ≤ BUF_CAP`
(R7, R103). -/
theorem State.Ready.accepted_fits {s : State} (hr : s.Ready) {t : PacketType} {h : Nat} {len : U16}
    (hsize : headerSize t = some h) (hsmall : t ≠ .aclData → len.toNat ≤ 255)
    (hbound : ¬ (t = .aclData ∧ s.maxAclLen.toNat < len.toNat)) : h + len.toNat ≤ s.cfg.bufCap := by
  obtain ⟨_, hcap, _, hacl⟩ := hr.limits
  cases t with
  | command => cases hsize; have := hsmall nofun; omega
  | event => cases hsize; have := hsmall nofun; omega
  | aclData => cases hsize; have : ¬ s.maxAclLen.toNat < len.toNat := fun hlt => hbound ⟨rfl, hlt⟩; omega
  | synchronousData => cases hsize

/-- What the byte `b` that completes a header of `h` bytes does, `d` being the payload length the header then declares:
the packet is rejected (R101), or complete without payload, or waits for its payload. -/
def HeaderEnded (s : State) (t : PacketType) (h : Nat) (b : Byte) (d : Nat) (u : State) : Prop :=
  if t = .aclData ∧ s.maxAclLen.toNat < d then u = { s.emptied with buf := s.buf.write (h - 1) b }
  else if d = 0 then
    u = s.handOver (s.buf.write (h - 1) b) (BitVec.ofNat 16 h)
      { ptype := t, bytes := s.buf.readFrom 0 (h - 1) ++ [b], length := BitVec.ofNat 16 h }
  else
    ∃ n : U16, n.toNat = h + d ∧ h + d ≤ s.cfg.bufCap ∧
      u = (s.putByte (h - 1) b).enterPayload n (BitVec.ofNat 16 h)

theorem runOp_headerEnd_ended {s : State} {t : PacketType} {h : Nat} {op : StepOp} (hr : s.Ready)
    (hmk : s.mkTag = some t) (hsize : headerSize t = some h) (hop : headerEndOp t = some op) (b : Byte) :
    ∃ d u, headerLength t (s.buf.readFrom 0 (h - 1) ++ [b]) = some d ∧ runOp op b s = .next u ∧
      HeaderEnded s t h b d u := by
  obtain ⟨_, hcap, hmax, _⟩ := hr.limits
  obtain ⟨hpos, hle⟩ := headerSize_range hsize
  have hk : (BitVec.ofNat 16 h).toNat = h := by rw [BitVec.toNat_ofNat]; omega
  have hread : (s.buf.write (h - 1) b).readFrom 0 h = s.buf.readFrom 0 (h - 1) ++ [b] := by
    simpa [Nat.sub_add_cancel hpos] using readFrom_write_snoc s.buf (h - 1) b
  obtain ⟨len, hlen, hsmall, hrun⟩ := runOp_headerEnd hsize hop (show 4 ≤ s.cfg.bufCap by omega) b
  have hdeclared := headerLength_take hsize hlen (Nat.le_refl h)
  rw [List.take_of_length_le (by simp), hread] at hdeclared
  by_cases hover : t = .aclData ∧ s.maxAclLen.toNat < len.toNat
  · rw [if_pos hover] at hrun
    exact ⟨_, _, hdeclared, hrun, by rw [HeaderEnded, if_pos hover]; rfl⟩
  have hfits := hr.accepted_fits hsize hsmall hover
  rw [if_neg hover] at hrun
  by_cases hzero : len.toNat = 0
  · have haccept := acceptHeader_of_no_payload (s := (s.putByte (h - 1) b).setCnt (BitVec.ofNat 16 (h + 1)))
      hk hfits hmax hmk hsize hr.idle hzero
    rw [packetOf, hk, State.setCnt_buf, State.putByte_buf, hread] at haccept
    exact ⟨_, _, hdeclared, hrun.trans haccept, by rw [HeaderEnded, if_neg hover, if_pos hzero]; rfl⟩
  · obtain ⟨haccept, hsum⟩ := acceptHeader_of_payload (s := (s.putByte (h - 1) b).setCnt (BitVec.ofNat 16 (h + 1)))
      hk hfits hmax hzero
    refine ⟨_, _, hdeclared, hrun.trans haccept, ?_⟩
    rw [HeaderEnded, if_neg hover, if_neg hzero]
    exact ⟨_, hsum, hfits, rfl⟩

/-- The byte that completes a header selects the header-completing operation of the packet's type. -/
theorem select_headerEnd {s : State} {t : PacketType} {h : Nat} (hst : s.st = .accumulatingHeader)
    (hmk : s.mkTag = some t) (hsize : headerSize t = some h) (hcnt : s.cnt.toNat = h) (b : Byte) :
    select s b = headerEndOp t := by
  have := headerSize_range hsize
  rw [select_accumulatingHeader hst hmk hsize (by omega) (by omega), if_neg (by omega)]

/-! ## A byte stored and counted (R97, R105) -/

theorem opHdrAcc_eq {s : State} (ha : s.cnt.toNat - 1 < s.cfg.bufCap) (b : Byte) :
    opHdrAcc b s = .next ((s.putByte (s.cnt.toNat - 1) b).setCnt (s.cnt + 1)) := by
  rw [opHdrAcc, storeByte_of_lt ha]
  rfl

theorem opPayAcc_eq {s : State} (ha : s.cnt.toNat < s.cfg.bufCap) (b : Byte) :
    opPayAcc b s = .next ((s.putByte s.cnt.toNat b).setCnt (s.cnt + 1)) := by
  rw [opPayAcc, storeByte_of_lt ha]
  rfl

/-- Below the end of its range a 16-bit count rises by one. -/
theorem toNat_add_one {n : U16} (h : n.toNat < 65535) : (n + 1).toNat = n.toNat + 1 := by
  rw [BitVec.toNat_add]
  exact Nat.mod_eq_of_lt (by simpa using Nat.succ_lt_succ h)

/-! ## The last payload byte, and the completion alone -/

/-- PAY.END stores the last byte behind the others and hands the packet over (R106, R102). -/
theorem opPayEnd_eq_handOver {s : State} {t : PacketType} {h : Nat} {n : U16} (hr : s.Ready)
    (hst : s.st = .accumulatingPayload) (hmk : s.mkTag = some t) (hsize : headerSize t = some h)
    (hn : s.explen = some n) (hfits : n.toNat ≤ s.cfg.bufCap) (hcnt : s.cnt.toNat + 1 = n.toNat) (b : Byte) :
    opPayEnd b s = .next (s.handOver (s.buf.write s.cnt.toNat b) n
      { ptype := t, bytes := s.buf.readFrom 0 s.cnt.toNat ++ [b], length := n }) := by
  have hlast : s.cnt + 1 = n := by
    have := n.isLt
    exact BitVec.eq_of_toNat_eq ((toNat_add_one (by omega)).trans hcnt)
  have hdone := completeOp_eq_handOver (s := (s.putByte s.cnt.toNat b).setCnt (s.cnt + 1)) hst hmk hsize hn hlast hfits
    hr.idle
  rw [packetOf, ← hcnt, State.setCnt_buf, State.putByte_buf, readFrom_write_snoc] at hdone
  rw [opPayEnd, storeByte_of_lt (by omega), chain_next_left]
  exact hdone

section
variable {s : State} {t : PacketType} {h : Nat} (hr : s.Ready) (hst : s.st = .accumulatingPayload)
include hr hst

/-- Both sub-operations run in the state a completing step reaches (R102, R126). -/
theorem whenCompleting_of_counted (hn : s.explen = some s.cnt) (r : Result) : whenCompleting s r = r := by
  rw [whenCompleting, whenReady_of_ready hr, if_pos (by simp [completing, hst, hn])]

variable (hmk : s.mkTag = some t) (hsize : headerSize t = some h)
include hmk hsize

theorem exec_payEnd_eq_handOver {n : U16} (hn : s.explen = some n) (hfits : n.toNat ≤ s.cfg.bufCap)
    (hcnt : s.cnt.toNat + 1 = n.toNat) (b : Byte) :
    exec (.payEnd b) s = .next (s.handOver (s.buf.write s.cnt.toNat b) n
      { ptype := t, bytes := s.buf.readFrom 0 s.cnt.toNat ++ [b], length := n }) := by
  have hsel := select_accumulatingPayload hst hn (by omega) b
  rw [if_neg (by omega)] at hsel
  exact (exec_byteInstr_of_select hr hsel).trans (opPayEnd_eq_handOver hr hst hmk hsize hn hfits hcnt b)

theorem exec_complete_eq_handOver (hn : s.explen = some s.cnt) (hfits : s.cnt.toNat ≤ s.cfg.bufCap) :
    exec .complete s = .next (s.handOver s.buf s.cnt
      { ptype := t, bytes := s.buf.readFrom 0 s.cnt.toNat, length := s.cnt }) :=
  (whenCompleting_of_counted hr hst hn _).trans (completeOp_eq_handOver hst hmk hsize hn rfl hfits hr.idle)

theorem exec_dispatch_eq_logDispatch (hn : s.explen = some s.cnt) (hfits : s.cnt.toNat ≤ s.cfg.bufCap) :
    exec .dispatch s =
      .next (s.logDispatch { ptype := t, bytes := s.buf.readFrom 0 s.cnt.toNat, length := s.cnt }) :=
  (whenCompleting_of_counted hr hst hn _).trans (emitDispatch_eq hmk hsize hn hfits)

end

/-! ## A decoder inside an emit (R128) -/

/-- While a `Dispatch` is outstanding a step only takes up deliveries. -/
theorem State.staysBlocked_of_busy {s : State} (hb : s.busy = true) : s.StaysBlocked := by
  intro ds k hk
  induction k generalizing s ds with
  | zero =>
    obtain rfl : ds = [] := List.length_eq_zero_iff.1 (by omega)
    simp [steps]
  | succ k ih =>
    cases ds with
    | nil =>
      have hrest : step { s with agenda := [] } = .next { s with agenda := [] } := by
        simp only [step, runStream, hb, if_true]
      rw [List.map_nil, steps, hrest, chain_next_left]
      exact ih hb [] (Nat.zero_le k)
    | cons d ds =>
      have hdeliver : step { s with agenda := (d :: ds).map .deliver } =
          .next { s with agenda := ds.map .deliver, rxq := s.rxq ++ d } := rfl
      rw [steps, hdeliver, chain_next_left, List.flatten_cons, ← List.append_assoc]
      exact ih (s := { s with rxq := s.rxq ++ d }) hb ds (by simpa using hk)

theorem State.insideEmit_staysBlocked (s : State) (m : Memory) (n : U16) (p : Packet) :
    (s.insideEmit m n p).StaysBlocked :=
  State.staysBlocked_of_busy rfl

end Sys2Proof.Machine

namespace Sys2Proof

open Machine

/-- The last header byte in a ready decoder, whatever the type of the packet. -/
theorem exec_headerEnd {s : State} {t : PacketType} {h : Nat} {op : StepOp} (hr : s.Ready)
    (hst : s.st = .accumulatingHeader) (hmk : s.mkTag = some t) (hsize : headerSize t = some h)
    (hop : headerEndOp t = some op) (hcnt : s.cnt.toNat = h) (b : Byte) :
    ∃ d u, headerLength t (s.buf.readFrom 0 (h - 1) ++ [b]) = some d ∧ exec (byteInstr op b) s = .next u ∧
      HeaderEnded s t h b d u := by
  have hsel := (select_headerEnd hst hmk hsize hcnt b).trans hop
  rw [exec_byteInstr_of_select hr hsel]
  exact runOp_headerEnd_ended hr hmk hsize hop b

/-- A header with an 8-bit length field ends with that field (R99, R100), which bounds itself (D7). -/
theorem exec_headerEnd_of_byte_length {s : State} {t : PacketType} {h : Nat} {op : StepOp} (hr : s.Ready)
    (hst : s.st = .accumulatingHeader) (hmk : s.mkTag = some t) (hsize : headerSize t = some h)
    (hop : headerEndOp t = some op) (hcnt : s.cnt.toNat = h) (hacl : t ≠ .aclData) (hsink : s.SinkReturns) {b : Byte}
    (hlen : headerLength t (s.buf.readFrom 0 (h - 1) ++ [b]) = some b.toNat) :
    ∃ u, exec (byteInstr op b) s = .next u ∧ u.buf.lookup (h - 1) = some b ∧
      (∀ a, a ≠ h - 1 → u.buf.lookup a = s.buf.lookup a) ∧
      if b = 0 then
        u = { s with
              mkTag := none, cnt := 0, explen := none, st := .awaitingMarker, buf := u.buf,
              dispatched := s.dispatched ++
                [{ ptype := t, bytes := s.buf.readFrom 0 (h - 1) ++ [b], length := BitVec.ofNat 16 h }],
              sinkPlan := s.sinkPlan.tail }
      else
        u = { s with cnt := BitVec.ofNat 16 h, explen := u.explen, st := .accumulatingPayload, buf := u.buf } ∧
        ∃ n, u.explen = some n ∧ n.toNat = h + b.toNat := by
  obtain ⟨d, u, hd, hu, hended⟩ := exec_headerEnd hr hst hmk hsize hop hcnt b
  obtain rfl : b.toNat = d := Option.some.inj (hlen.symm.trans hd)
  have hzero : b.toNat = 0 ↔ b = 0 := by rw [← BitVec.toNat_inj]; rfl
  rw [HeaderEnded, if_neg fun h => hacl h.1, hsink.handOver] at hended
  simp only [hzero] at hended
  refine ⟨u, hu, ?_⟩
  by_cases hb : b = 0
  · rw [if_pos hb] at hended ⊢
    subst hended
    exact ⟨lookup_write_same s.buf _ b, fun _ => lookup_write_ne s.buf b, rfl⟩
  · rw [if_neg hb] at hended ⊢
    obtain ⟨n, hn, _, rfl⟩ := hended
    exact ⟨lookup_write_same s.buf _ b, fun _ => lookup_write_ne s.buf b, rfl, n, rfl, hn⟩

/-- Settles O21. -/
theorem commandHeaderEnds : Obligations.CommandHeaderEnds := by
  intro s b hr hst hmk hcnt hsink
  exact exec_headerEnd_of_byte_length hr hst hmk rfl rfl (by rw [hcnt]; rfl) nofun hsink rfl

/-- Settles O22. -/
theorem eventHeaderEnds : Obligations.EventHeaderEnds := by
  intro s b hr hst hmk hcnt hsink
  exact exec_headerEnd_of_byte_length hr hst hmk rfl rfl (by rw [hcnt]; rfl) nofun hsink rfl

/-- Settles O23: the header declares `BUF[2] + 256 b` (D3), which decides between the three outcomes. -/
theorem aclHeaderEnds : Obligations.AclHeaderEnds := by
  intro s b hr hst hmk hcnt hsink
  obtain ⟨d, u, hd, hu, hended⟩ := exec_headerEnd hr hst hmk rfl rfl (by rw [hcnt]; rfl) b
  obtain rfl : (le16 (s.buf.byte 2) b).toNat = d := Option.some.inj hd
  rw [le16_toNat, HeaderEnded, hsink.handOver] at hended
  simp only [true_and] at hended
  refine ⟨u, hu, ?_⟩
  by_cases hover : s.maxAclLen.toNat < (s.buf.byte 2).toNat + 256 * b.toNat
  · rw [if_pos hover] at hended ⊢
    subst hended
    exact ⟨lookup_write_same s.buf 3 b, fun _ => lookup_write_ne s.buf b, rfl⟩
  rw [if_neg hover] at hended ⊢
  by_cases hzero : (s.buf.byte 2).toNat + 256 * b.toNat = 0
  · rw [if_pos hzero] at hended ⊢
    subst hended
    exact ⟨lookup_write_same s.buf 3 b, fun _ => lookup_write_ne s.buf b, rfl⟩
  · rw [if_neg hzero] at hended ⊢
    obtain ⟨n, hn, _, rfl⟩ := hended
    exact ⟨lookup_write_same s.buf 3 b, fun _ => lookup_write_ne s.buf b, rfl, n, rfl, hn⟩

/-- Settles O25. -/
theorem lastPayloadByteCompletes : Obligations.LastPayloadByteCompletes := by
  intro s b t h n hr hst hmk hsize hn hfits hcnt hsink
  have hrun := exec_payEnd_eq_handOver hr hst hmk hsize hn hfits hcnt b
  rw [hsink.handOver] at hrun
  exact ⟨_, hrun, rfl, lookup_write_same s.buf s.cnt.toNat b, fun _ => lookup_write_ne s.buf b⟩

/-- Settles O26. -/
theorem completeDispatchesAndEmpties : Obligations.CompleteDispatchesAndEmpties := by
  intro s t h hr hst hmk hsize hn hfits hsink
  rw [exec_complete_eq_handOver hr hst hmk hsize hn hfits, hsink.handOver]

/-- Settles O27: `busy`, which the emit sets to the sink's not returning, stays clear. -/
theorem dispatchHandsOverPacket : Obligations.DispatchHandsOverPacket := by
  intro s t h hr hst hmk hsize hn hfits hsink
  rw [exec_dispatch_eq_logDispatch hr hst hmk hsize hn hfits, State.logDispatch, hsink.sinkBlocks, ← hr.idle]

/-- A header that declares no payload, before a sink that never returns. -/
theorem exec_headerEnd_of_never {s : State} {t : PacketType} {h : Nat} {op : StepOp} (hr : s.Ready)
    (hnever : s.sinkAnswer = .never) (hst : s.st = .accumulatingHeader) (hmk : s.mkTag = some t)
    (hsize : headerSize t = some h) (hop : headerEndOp t = some op) (hcnt : s.cnt.toNat = h) (b : Byte)
    (hd : headerLength t (s.buf.readFrom 0 (h - 1) ++ [b]) = some 0) :
    ∃ u, exec (byteInstr op b) s = .next u ∧ u.StaysBlocked ∧
      u = s.insideEmit (s.buf.write (h - 1) b) (BitVec.ofNat 16 h)
        { ptype := t, bytes := s.buf.readFrom 0 (h - 1) ++ [b], length := BitVec.ofNat 16 h } := by
  obtain ⟨d, u, hd', hu, hended⟩ := exec_headerEnd hr hst hmk hsize hop hcnt b
  obtain rfl : d = 0 := Option.some.inj (hd'.symm.trans hd)
  rw [HeaderEnded, if_neg (by simp), if_pos rfl, handOver_of_never hnever] at hended
  subst hended
  exact ⟨_, hu, s.insideEmit_staysBlocked _ _ _, rfl⟩

/-- Settles O29: each completing step hands over inside the emit, and a busy decoder only sees `RXQ` grow. -/
theorem sinkNeverReturningBlocks : Obligations.SinkNeverReturningBlocks := by
  intro s hr hnever _
  refine ⟨fun hst hmk hcnt => ?_, fun hst hmk hcnt => ?_, fun hst hmk hcnt hlow => ?_,
    fun hst t h n hmk hsize hn hfits => ⟨fun b hcnt => ?_, ?_⟩⟩
  · exact exec_headerEnd_of_never hr hnever hst hmk rfl rfl (by rw [hcnt]; rfl) 0 rfl
  · exact exec_headerEnd_of_never hr hnever hst hmk rfl rfl (by rw [hcnt]; rfl) 0 rfl
  · have hread : s.buf.readFrom 0 3 = [s.buf.byte 0, s.buf.byte 1, 0] := congrArg (fun x => [_, _, x]) hlow
    have h := exec_headerEnd_of_never hr hnever hst hmk rfl rfl (by rw [hcnt]; rfl) 0 (by rw [hread]; rfl)
    rw [hread] at h
    exact h
  · have hrun := exec_payEnd_eq_handOver hr hst hmk hsize hn hfits hcnt b
    rw [handOver_of_never hnever] at hrun
    exact ⟨_, hrun, s.insideEmit_staysBlocked _ _ _, rfl⟩
  · rintro rfl
    have hrun := exec_complete_eq_handOver hr hst hmk hsize hn hfits
    rw [handOver_of_never hnever] at hrun
    exact ⟨_, hrun, s.insideEmit_staysBlocked _ _ _, rfl⟩

end Sys2Proof
end

section
/-! SUPPORT and settlement of O44, O45, O46, O47, O48, O49, O17, O31. A byte step keeps the invariant R26; a step of the
machine is a run of a few elementary moves, so what every move keeps every step keeps. -/

namespace Sys2Proof.Machine

/-! ## A byte step under the invariant -/

/-- What a byte step does from a state of the invariant: it answers such a state, with some well-formed packets more. -/
def KeepsInv (s : State) (o : Result) : Prop :=
  ∃ u ps, o = .next u ∧ u.Inv ∧ u.dispatched = s.dispatched ++ ps ∧ ∀ p ∈ ps, ∃ h, Packet.Wellformed p h

theorem KeepsInv.of_quiet {s u : State} (hi : u.Inv) (hd : u.dispatched = s.dispatched) : KeepsInv s (.next u) :=
  ⟨u, [], rfl, hi, by simpa using hd, by simp⟩

theorem State.row_of_inHeader {s : State} (hst : s.st = .accumulatingHeader) {t : PacketType} {h : Nat}
    (hh : s.InHeader t h) : s.Row := by
  rw [State.Row, hst]
  exact ⟨t, h, hh⟩

theorem State.row_of_inPayload {s : State} (hst : s.st = .accumulatingPayload) {t : PacketType} {h : Nat} {n len : U16}
    (hp : s.InPayload t h n len) : s.Row := by
  rw [State.Row, hst]
  exact ⟨t, h, n, len, hp⟩

/-- A supported marker opens the first header row of R26. -/
theorem State.Inv.openPacket {s : State} (hs : Sound s) (he : s.Empty) (hb : s.busy = false) {q : PacketType} {h : Nat}
    (hsize : headerSize q = some h) : (s.openPacket q).Inv := by
  obtain ⟨hpos, _⟩ := headerSize_range hsize
  exact ⟨hs.config, hs.wf, hs.bounded, q, h, rfl, hsize, Nat.le_refl 1, hpos, he.explen, fun a ha => by simp at ha, hb⟩

section
variable {s : State} (hi : s.Inv) (b : Byte)
include hi

theorem keepsInv_awaitingMarker (hst : s.st = .awaitingMarker) : KeepsInv s (runOp (selectMarker s.cfg b) b s) := by
  have hrow := hi.row
  rw [State.Row, hst] at hrow
  obtain ⟨hempty, hb⟩ := hrow
  cases htype : typeOf s.cfg b with
  | none =>
    rw [selectMarker_of_none htype]
    exact .of_quiet hi rfl
  | some q =>
    rw [selectMarker_of_some htype]
    cases hsize : headerSize q with
    | none =>
      cases q <;> cases hsize
      exact .of_quiet hi rfl
    | some h =>
      rw [runOp_markOp (ne_synchronousData_of_headerSize hsize)]
      exact .of_quiet (.openPacket hi.sound hempty hb hsize) rfl

variable (hr : s.Ready)
include hr

theorem keepsInv_hdrAcc {t : PacketType} {h : Nat} (hst : s.st = .accumulatingHeader) (hh : s.InHeader t h)
    (hlt : s.cnt.toNat < h) : KeepsInv s (opHdrAcc b s) := by
  obtain ⟨_, hcap, _, _⟩ := hr.limits
  have hle := headerSize_le hh.size
  have hlow := hh.low
  have hcnt := toNat_add_one (n := s.cnt) (by omega)
  have hidx : s.cnt.toNat - 1 < s.cfg.bufCap := by omega
  have hput := hi.sound.putByte b hidx
  have hwritten := written_write_succ (b := b) hh.written
  rw [opHdrAcc_eq hidx]
  refine .of_quiet ⟨hput.config, hput.wf, hput.bounded, State.row_of_inHeader hst
    ⟨hh.packet, hh.size, ?_, ?_, hh.explen, ?_, hh.idle⟩⟩ rfl <;> rw [State.setCnt_cnt, hcnt]
  · omega
  · omega
  · simpa [Nat.sub_add_cancel hlow] using hwritten

theorem keepsInv_headerEnd {t : PacketType} {h : Nat} {op : StepOp} (hh : s.InHeader t h)
    (hop : headerEndOp t = some op) (hcnt : s.cnt.toNat = h) : KeepsInv s (runOp op b s) := by
  obtain ⟨_, hcap, _, _⟩ := hr.limits
  obtain ⟨hpos, hle⟩ := headerSize_range hh.size
  have hput := hi.sound.putByte (a := h - 1) b (by omega)
  obtain ⟨len, hlen, hsmall, hrun⟩ := runOp_headerEnd hh.size hop (show 4 ≤ s.cfg.bufCap by omega) b
  rw [hrun]
  by_cases hover : t = .aclData ∧ s.maxAclLen.toNat < len.toNat
  · rw [if_pos hover]
    exact .of_quiet ⟨hput.config, hput.wf, hput.bounded, empty_emptied _, hr.idle⟩ rfl
  · have hfits := hr.accepted_fits hh.size hsmall hover
    have hwritten := written_write_succ (b := b) hh.written
    rw [hcnt, Nat.sub_add_cancel hpos] at hwritten
    rw [if_neg hover]
    obtain ⟨u, ps, hu, hinv, hd, hps⟩ := acceptHeader_inv
      (s := (s.putByte (h - 1) b).setCnt (BitVec.ofNat 16 (h + 1))) (k := BitVec.ofNat 16 h)
      ⟨hput.config, hput.wf, hput.bounded⟩ hh.packet hh.size (by rw [BitVec.toNat_ofNat]; omega) hlen hfits hwritten
      hr.idle
    exact ⟨u, ps, hu, hinv, hd, fun p hp => ⟨h, hps p hp⟩⟩

theorem keepsInv_payload {t : PacketType} {h : Nat} {n len : U16} (hst : s.st = .accumulatingPayload)
    (hp : s.InPayload t h n len) :
    KeepsInv s (if s.cnt.toNat + 1 < n.toNat then opPayAcc b s else opPayEnd b s) := by
  have hlt := hp.cnt_lt hr.idle
  have hfits := hp.fits
  have hlow := hp.low
  have hmax := n.isLt
  have hcnt := toNat_add_one (n := s.cnt) (by omega)
  have hput := hi.sound.putByte (a := s.cnt.toNat) b (by omega)
  have hfield : lenField (s.buf.write s.cnt.toNat b) t = some len := (lenField_write hp.size hlow).trans hp.field
  have hwritten := written_write_succ (b := b) hp.written
  by_cases hmore : s.cnt.toNat + 1 < n.toNat
  · rw [if_pos hmore, opPayAcc_eq (by omega)]
    refine .of_quiet ⟨hput.config, hput.wf, hput.bounded, State.row_of_inPayload hst
      ⟨hp.packet, hp.size, hp.explen, hfield, hp.total, hfits, ?_, ?_, ?_⟩⟩ rfl
    · rw [State.setCnt_cnt, hcnt]; omega
    · rw [if_neg (by simp [hr.idle]), State.setCnt_cnt, hcnt]
      exact hmore
    · rw [State.setCnt_cnt, hcnt]
      exact hwritten
  · rw [if_neg hmore, opPayEnd, storeByte_of_lt (by omega), chain_next_left]
    have hlast : s.cnt.toNat + 1 = n.toNat := by omega
    rw [hlast] at hwritten
    obtain ⟨u, p, hu, hinv, _, hd, hwf⟩ := completeOp_inv (s := (s.putByte s.cnt.toNat b).setCnt (s.cnt + 1))
      ⟨hput.config, hput.wf, hput.bounded⟩ hst hp.packet hp.size hp.explen hfield hp.total hfits
      (BitVec.eq_of_toNat_eq (hcnt.trans hlast)) hwritten
    exact ⟨u, [p], hu, hinv, hd, by simpa using ⟨h, hwf⟩⟩

/-- R107 with R26: a byte step in a ready state of the invariant. -/
theorem keepsInv_consumeByte : KeepsInv s (consumeByte b s) := by
  cases hst : s.st with
  | awaitingMarker =>
    rw [consumeByte_of_select hr (select_awaitingMarker hst b)]
    exact keepsInv_awaitingMarker hi b hst
  | accumulatingHeader =>
    obtain ⟨t, h, hh⟩ := hi.inHeader hst
    have hsel := select_accumulatingHeader hst hh.packet hh.size hh.low hh.high b
    by_cases hlt : s.cnt.toNat < h
    · rw [if_pos hlt] at hsel
      rw [consumeByte_of_select hr hsel]
      exact keepsInv_hdrAcc hi b hr hst hh hlt
    · rw [if_neg hlt] at hsel
      have hcnt : s.cnt.toNat = h := Nat.le_antisymm hh.high (by omega)
      cases hop : headerEndOp t with
      | none => cases t <;> cases hop; cases hh.size
      | some op =>
        rw [consumeByte_of_select hr (hsel.trans hop)]
        exact keepsInv_headerEnd hi b hr hh hop hcnt
  | accumulatingPayload =>
    obtain ⟨t, h, n, len, hp⟩ := hi.inPayload hst
    have hsel := select_accumulatingPayload hst hp.explen (hp.cnt_lt hr.idle) b
    have hkeep := keepsInv_payload hi b hr hst hp
    split at hkeep <;> rename_i hmore
    · rw [if_pos hmore] at hsel
      rwa [consumeByte_of_select hr hsel]
    · rw [if_neg hmore] at hsel
      rwa [consumeByte_of_select hr hsel]

end

theorem KeepsInv.trans {s u t : State} (h1 : KeepsInv s (.next u)) (h2 : u.Inv → KeepsInv u (.next t)) :
    KeepsInv s (.next t) := by
  obtain ⟨_, ps, hu, hi, hd, hps⟩ := h1
  cases hu
  obtain ⟨_, qs, ht, hi', hd', hqs⟩ := h2 hi
  cases ht
  refine ⟨t, ps ++ qs, rfl, hi', by rw [hd', hd, List.append_assoc], fun p hp => ?_⟩
  exact (List.mem_append.1 hp).elim (hps p) (hqs p)

/-! ## The elementary moves of a step -/

/-- What a step of the machine is made of, `CONFIG` aside. -/
inductive Move : State → State → Prop
  | byte {b : Byte} {s t : State} (h : consumeByte b s = .next t) : Move s t
  | source (s : State) : Move s (srcGetOp s)
  | deliver (s : State) (bytes : List Byte) : Move s (s.appendRx bytes)
  | event (s : State) (rest : List Stimulus) : Move s (s.setAgenda rest)
  | frame (s : State) (f : List Byte) : Move s (s.logFrame f)
  | reset {s : State} (hc : s.configOk = true) : Move s s.emptied.clearBusy

/-- A run of moves. -/
abbrev Moves : State → State → Prop := Relation.ReflTransGen Move

theorem drainLoop_moves {fuel : Nat} {s t : State} (h : drainLoop fuel s = .next t) : Moves s t := by
  induction fuel generalizing s with
  | zero => cases h; exact .refl
  | succ fuel ih =>
    rw [drainLoop] at h
    split at h
    · obtain ⟨u, hu, hafter⟩ := chain_next.1 h
      have hsu : Moves s u := .tail (.single (.source s)) (.byte hu)
      unfold afterStep at hafter
      split at hafter
      · cases hafter; exact hsu
      · split at hafter
        · cases hafter; exact hsu
        · exact hsu.trans (ih hafter)
    · cases h
      exact .single (.source s)

/-- The state is the one `CONFIG(v)` in range answers (R212). -/
structure Configured (v : Nat) (s t : State) : Prop where
  static : staticConfigOk s.cfg = true
  idle : s.busy = false
  range : 4 + v ≤ s.cfg.bufCap
  next : t = s.setMaxAclLen (BitVec.ofNat 16 v)

theorem execConfig_next {v : Nat} {s t : State} (h : execConfig v s = .next t) : t = s ∨ Configured v s t := by
  unfold execConfig at h
  split at h
  · cases h
  · split at h
    · cases h
    · split at h
      · rename_i hstatic hbusy hrange
        cases h
        exact .inr ⟨by simpa using hstatic, by simpa using hbusy, hrange, rfl⟩
      · cases h
        exact .inl rfl

theorem encoder_moves {i : Instr} {s t : State} (he : isEncoder i = true) (h : exec i s = .next t) : Moves s t := by
  rcases encoder_frame he h with rfl | ⟨f, rfl⟩
  · exact .refl
  · exact .single (.frame s f)

theorem request_moves {r : Request} {s t : State} (h : exec (requestInstr r) s = .next t) :
    Moves s t ∨ ∃ v, r = .config v ∧ Configured v s t := by
  cases r with
  | drain => exact .inl (drainLoop_moves (whenReady_next.1 h).2)
  | reset =>
    obtain ⟨hc, _, h⟩ := whenIdle_next.1 h
    cases h
    exact .inl (.single (.reset hc))
  | config v =>
    rcases execConfig_next h with rfl | hv
    · exact .inl .refl
    · exact .inr ⟨v, rfl, hv⟩
  | encFrame q bytes => exact .inl (encoder_moves rfl h)
  | encCmd opcode plen params => exact .inl (encoder_moves rfl h)
  | encAcl handle pb bc dlen data => exact .inl (encoder_moves rfl h)
  | encEvt code len data => exact .inl (encoder_moves rfl h)

theorem runFetched_moves {s t : State} (h : runFetched s = .next t) : Moves s t := by
  unfold runFetched fetched at h
  split at h
  · rename_i i hi
    split at hi
    · split at hi <;> cases hi
      rename_i hdecode
      rw [exec_row rfl hdecode] at h
      exact .single (.byte h)
    · cases hi
  · cases h; exact .refl
  · cases h

/-- A step is a run of moves, or takes up a `CONFIG` in range. -/
theorem step_moves {s t : State} (h : step s = .next t) :
    Moves s t ∨ ∃ v rest, s.agenda = .call (.config v) :: rest ∧ Configured v (s.setAgenda rest) t := by
  unfold step at h
  split at h
  · rename_i e rest hagenda
    have htake : Moves s (s.setAgenda rest) := .single (.event s rest)
    cases e with
    | deliver bytes =>
      cases h
      exact .inl (htake.tail (.deliver _ bytes))
    | call r =>
      rcases request_moves h with hm | ⟨v, rfl, hv⟩
      · exact .inl (htake.trans hm)
      · exact .inr ⟨v, rest, hagenda, hv⟩
  · unfold runStream at h
    split at h
    · cases h; exact .inl .refl
    · split at h
      · cases h; exact .inl .refl
      · obtain ⟨u, hu, hrun⟩ := chain_next.1 h
        obtain ⟨_, _, hu⟩ := whenIdle_next.1 hu
        cases hu
        exact .inl (.trans (.single (.source s)) (runFetched_moves hrun))

/-! ## What every move keeps -/

theorem Move.keepsInv {s t : State} (h : Move s t) (hi : s.Inv) : KeepsInv s (.next t) := by
  cases h with
  | byte h =>
    obtain ⟨hr, _⟩ := consumeByte_next.1 h
    rw [← h]
    exact keepsInv_consumeByte hi _ hr
  | source => exact .of_quiet hi.srcGetOp (srcGetOp_dispatched s)
  | deliver bytes => exact .of_quiet (hi.congr rfl rfl rfl rfl rfl rfl rfl hi.config) rfl
  | event rest => exact .of_quiet (hi.congr rfl rfl rfl rfl rfl rfl rfl hi.config) rfl
  | frame f => exact .of_quiet (hi.congr rfl rfl rfl rfl rfl rfl rfl hi.config) rfl
  | reset => exact .of_quiet ⟨hi.config, hi.wf, hi.bounded, ⟨rfl, rfl, rfl, rfl⟩, rfl⟩ rfl

theorem Moves.keepsInv {s t : State} (h : Moves s t) (hi : s.Inv) : KeepsInv s (.next t) := by
  induction h with
  | refl => exact .of_quiet hi rfl
  | tail _ hlast ih => exact ih.trans hlast.keepsInv

/-- R212 keeps `4 + MAX_ACL_LEN ≤ BUF_CAP`. -/
theorem Configured.configOk {v : Nat} {s t : State} (h : Configured v s t) :
    t.configOk = true ∧ t.maxAclLen.toNat = v := by
  obtain ⟨hstatic, _, hrange, rfl⟩ := h
  have hcap : s.cfg.bufCap ≤ 65535 := by
    simp only [staticConfigOk, Bool.and_eq_true, decide_eq_true_eq] at hstatic
    exact hstatic.2
  have hv : (BitVec.ofNat 16 v).toNat = v := by rw [BitVec.toNat_ofNat]; omega
  exact ⟨by simp [State.configOk, hstatic, hv, hrange], hv⟩

/-- What a step does from a state of the invariant. -/
theorem step_keepsInv {s t : State} (hi : s.Inv) (h : step s = .next t) : KeepsInv s (.next t) := by
  rcases step_moves h with hm | ⟨v, rest, _, hv⟩
  · exact hm.keepsInv hi
  · have hc := hv.configOk.1
    obtain rfl := hv.next
    exact .of_quiet (hi.congr rfl rfl rfl rfl rfl rfl rfl hc) rfl

/-- The output streams of `t` are those of `s` with something appended. -/
def Extends (s t : State) : Prop :=
  ∃ p q, t.dispatched = s.dispatched ++ p ∧ t.transmitted = s.transmitted ++ q

theorem Extends.of_eq {s t : State} (hd : t.dispatched = s.dispatched) (ht : t.transmitted = s.transmitted) :
    Extends s t :=
  ⟨[], [], by simpa using hd, by simpa using ht⟩

theorem Extends.trans {s u t : State} (h1 : Extends s u) (h2 : Extends u t) : Extends s t := by
  obtain ⟨p, q, hp, hq⟩ := h1
  obtain ⟨p', q', hp', hq'⟩ := h2
  exact ⟨p ++ p', q ++ q', by rw [hp', hp, List.append_assoc], by rw [hq', hq, List.append_assoc]⟩

theorem Move.extends {s t : State} (h : Move s t) : Extends s t := by
  cases h with
  | byte h =>
    obtain ⟨⟨hframe, ps, hps⟩, _⟩ := consumeByte_frame h
    exact ⟨ps, [], hps, by rw [hframe, List.append_nil]⟩
  | source => exact .of_eq (srcGetOp_dispatched s) (srcGetOp_transmitted s)
  | deliver bytes => exact .of_eq rfl rfl
  | event rest => exact .of_eq rfl rfl
  | frame f => exact ⟨[], [_], by simp, rfl⟩
  | reset => exact .of_eq rfl rfl

theorem Moves.extends {s t : State} (h : Moves s t) : Extends s t := by
  induction h with
  | refl => exact .of_eq rfl rfl
  | tail _ hlast ih => exact ih.trans hlast.extends

/-- The wiring and the bound are those of `s`. -/
def SameWiring (s t : State) : Prop := t.cfg = s.cfg ∧ t.sink = s.sink ∧ t.maxAclLen = s.maxAclLen

theorem SameWiring.trans {s u t : State} (h1 : SameWiring s u) (h2 : SameWiring u t) : SameWiring s t := by
  obtain ⟨hcfg, hsink, hbound⟩ := h1
  obtain ⟨hcfg', hsink', hbound'⟩ := h2
  exact ⟨hcfg'.trans hcfg, hsink'.trans hsink, hbound'.trans hbound⟩

theorem Move.sameWiring {s t : State} (h : Move s t) : SameWiring s t := by
  cases h with
  | byte h =>
    obtain ⟨⟨hframe, _⟩, _⟩ := consumeByte_frame h
    rw [hframe]
    exact ⟨rfl, rfl, rfl⟩
  | source => exact ⟨srcGetOp_cfg s, srcGetOp_sink s, srcGetOp_maxAclLen s⟩
  | deliver bytes => exact ⟨rfl, rfl, rfl⟩
  | event rest => exact ⟨rfl, rfl, rfl⟩
  | frame f => exact ⟨rfl, rfl, rfl⟩
  | reset => exact ⟨rfl, rfl, rfl⟩

theorem Moves.sameWiring {s t : State} (h : Moves s t) : SameWiring s t := by
  induction h with
  | refl => exact ⟨rfl, rfl, rfl⟩
  | tail _ hlast ih => exact ih.trans hlast.sameWiring

/-! ## No fault -/

theorem whenReady_ne_fault {s : State} {r : Result} {f : Fault} (h : s.Ready → r ≠ .fault f) :
    whenReady s r ≠ .fault f := by
  by_cases hr : s.Ready
  · rw [whenReady_of_ready hr]
    exact h hr
  · obtain ⟨e, he⟩ := Option.ne_none_iff_exists'.1 (mt ready_iff.1 hr)
    rw [whenReady_refused he]
    nofun

theorem whenIdle_ne_fault {s : State} {r : Result} {f : Fault} (h : r ≠ .fault f) : whenIdle s r ≠ .fault f := by
  unfold whenIdle
  cases s.notIdle with
  | some e => nofun
  | none => exact h

theorem consumeByte_ne_fault {s : State} (hi : s.Inv) (b : Byte) (f : Fault) : consumeByte b s ≠ .fault f := by
  refine whenReady_ne_fault fun hr => ?_
  obtain ⟨u, _, hu, _⟩ := keepsInv_consumeByte hi b hr
  rw [consumeByte, whenReady_of_ready hr] at hu
  rw [hu]
  nofun

theorem drainLoop_ne_fault {fuel : Nat} {s : State} (hi : s.Inv) (f : Fault) : drainLoop fuel s ≠ .fault f := by
  induction fuel generalizing s with
  | zero => nofun
  | succ fuel ih =>
    rw [drainLoop]
    split
    · intro hfault
      rcases chain_fault.1 hfault with hbyte | ⟨u, hu, hafter⟩
      · exact consumeByte_ne_fault hi.srcGetOp _ f hbyte
      · obtain ⟨_, _, hu', hi', _⟩ := (Move.byte hu).keepsInv hi.srcGetOp
        cases hu'
        unfold afterStep at hafter
        split at hafter
        · cases hafter
        · split at hafter
          · cases hafter
          · exact ih hi' hafter
    · nofun

theorem encodeFrame_ne_fault (q : PacketType) (bytes : List Byte) (s : State) (f : Fault) :
    encodeFrame q bytes s ≠ .fault f := by
  unfold encodeFrame
  split
  · nofun
  · split <;> nofun

theorem request_ne_fault {s : State} (hi : s.Inv) (r : Request) (f : Fault) : exec (requestInstr r) s ≠ .fault f := by
  cases r with
  | drain =>
    exact whenReady_ne_fault fun _ => drainLoop_ne_fault hi f
  | reset => exact whenIdle_ne_fault nofun
  | config v =>
    simp only [requestInstr, exec, execConfig]
    split
    · nofun
    · split
      · nofun
      · split <;> nofun
  | encFrame q bytes => exact encodeFrame_ne_fault _ _ s f
  | encCmd opcode plen params => exact encodeFrame_ne_fault _ _ s f
  | encAcl handle pb bc dlen data => exact encodeFrame_ne_fault _ _ s f
  | encEvt code len data => exact encodeFrame_ne_fault _ _ s f

end Sys2Proof.Machine

namespace Sys2Proof

open Machine

/-- Settles O44. -/
theorem stepKeepsInvariant : Obligations.StepKeepsInvariant := by
  intro s t hi h
  obtain ⟨_, _, ht, hinv, _⟩ := step_keepsInv hi h
  cases ht
  exact hinv

/-- Settles O49: what joins the stream is well formed, what stood there is by hypothesis. -/
theorem dispatchedPacketsWellFormed : Obligations.DispatchedPacketsWellFormed := by
  intro s t hi h hold p hp
  obtain ⟨_, ps, ht, _, hd, hps⟩ := step_keepsInv hi h
  cases ht
  rw [hd] at hp
  exact (List.mem_append.1 hp).elim (hold p) (hps p)

/-- Settles O45: the byte step and the loop of `DRAIN` store only where the invariant allows, nothing else stores. -/
theorem noFaultFromInvariant : Obligations.NoFaultFromInvariant := by
  intro s f hi
  cases hagenda : s.agenda with
  | cons e rest =>
    have hstep : step s = runEvent e (s.setAgenda rest) := by rw [step, hagenda]
    rw [hstep]
    cases e with
    | deliver bytes => nofun
    | call r =>
      have hi' : (s.setAgenda rest).Inv := hi.congr rfl rfl rfl rfl rfl rfl rfl hi.config
      exact request_ne_fault hi' r f
  | nil =>
    by_cases hb : s.busy = true
    · rw [step, hagenda]
      simp [runStream, hb]
    by_cases hq : s.rxq = []
    · rw [step_at_rest hagenda hq]
      nofun
    rw [step_idle hagenda (by simpa using hb) hq hi.config]
    split
    · exact consumeByte_ne_fault hi.srcGetOp _ f
    · nofun

/-- Settles O46: R107 at the byte the source hands over. -/
theorem inputNeverStops : Obligations.InputNeverStops := by
  intro s hi hsink hagenda
  by_cases hb : s.busy = true
  · exact ⟨s, by rw [step, hagenda]; simp [runStream, hb]⟩
  by_cases hq : s.rxq = []
  · exact ⟨s, step_at_rest hagenda hq⟩
  have hr : s.Ready := ⟨hi.config, hsink, by simpa using hb⟩
  rw [step_idle hagenda hr.idle hq hi.config]
  split
  · obtain ⟨u, _, hu, _⟩ := keepsInv_consumeByte hi.srcGetOp (srcGetOp s).srcAns.byte hr.srcGetOp
    exact ⟨u, hu⟩
  · exact ⟨_, rfl⟩

/-- Settles O47. -/
theorem outputsOnlyGrow : Obligations.OutputsOnlyGrow := by
  intro s t h
  rcases step_moves h with hm | ⟨v, rest, _, hv⟩
  · exact hm.extends
  · rw [hv.next]
    exact Extends.of_eq rfl rfl

/-- Settles O48. -/
theorem configurationIsStatic : Obligations.ConfigurationIsStatic := by
  intro s t h
  rcases step_moves h with hm | ⟨v, rest, hagenda, hv⟩
  · obtain ⟨hcfg, hsink, hbound⟩ := hm.sameWiring
    exact ⟨hcfg, hsink, .inl hbound⟩
  · have hbound := hv.configOk.2
    refine ⟨?_, ?_, .inr ⟨v, rest, hagenda, hbound⟩⟩ <;> rw [hv.next] <;> rfl

/-- Settles O17. -/
theorem stepIsTotal : Obligations.StepIsTotal := by
  intro s b hi hr
  obtain ⟨u, _, hu, _⟩ := keepsInv_consumeByte hi b hr
  exact ⟨u, hu, (consumeByte_frame hu).1.1⟩

section
variable {s : State} {b : Byte} (hi : s.Inv) (hr : s.Ready)
include hi hr

/-- R181, R183: in `AwaitingMarker` the byte that raises a cause is dropped, and the decoder is empty already. -/
theorem recovers_awaitingMarker (hst : s.st = .awaitingMarker) {e : ErrorCause} (hcause : stepCause s b = some e) :
    exec (.stepByte b) s = .next s ∧ s.Empty := by
  have hrow := hi.row
  rw [State.Row, hst] at hrow
  have hsel := select_awaitingMarker hst b
  refine ⟨(consumeByte_of_select hr hsel).trans ?_, hrow.1⟩
  rw [stepCause, hsel] at hcause
  cases htype : typeOf s.cfg b with
  | none => rw [selectMarker_of_none htype]; rfl
  | some q =>
    rw [selectMarker_of_some htype] at hcause ⊢
    cases q <;> cases hcause
    rfl

/-- R182: inside a packet only the last byte of an `AclData` header raises a cause, and it empties the decoder. -/
theorem recovers_accumulatingHeader (hst : s.st = .accumulatingHeader) {e : ErrorCause}
    (hcause : stepCause s b = some e) : exec (.stepByte b) s = .next { s.emptied with buf := s.buf.write 3 b } := by
  obtain ⟨t, h, hh⟩ := hi.inHeader hst
  have hsel := select_accumulatingHeader hst hh.packet hh.size hh.low hh.high b
  rw [stepCause, hsel] at hcause
  by_cases hlt : s.cnt.toNat < h
  · rw [if_pos hlt] at hcause
    cases hcause
  rw [if_neg hlt] at hsel hcause
  have hmk := hh.packet
  have hsize := hh.size
  cases t with
  | command => cases hcause
  | event => cases hcause
  | synchronousData => cases hsize
  | aclData =>
    cases hsize
    obtain ⟨d, u, hd, hu, hended⟩ := runOp_headerEnd_ended hr hmk rfl rfl b
    obtain rfl : (le16 (s.buf.byte 2) b).toNat = d := Option.some.inj hd
    have hover : s.maxAclLen.toNat < (le16 (s.buf.byte 2) b).toNat := by
      by_contra hbound
      simp [headerEndOp, oversized, hbound] at hcause
    rw [HeaderEnded, if_pos ⟨rfl, hover⟩] at hended
    subst hended
    exact (consumeByte_of_select hr hsel).trans hu

theorem no_cause_accumulatingPayload (hst : s.st = .accumulatingPayload) : stepCause s b = none := by
  obtain ⟨t, h, n, len, hp⟩ := hi.inPayload hst
  rw [stepCause, select_accumulatingPayload hst hp.explen (hp.cnt_lt hr.idle)]
  split <;> rename_i hsel <;> split at hsel <;> cases hsel <;> rfl

end

/-- Settles O31. -/
theorem framingErrorsRecover : Obligations.FramingErrorsRecover := by
  intro s b e hi hr hcause
  cases hst : s.st with
  | awaitingMarker =>
    obtain ⟨hrun, hempty⟩ := recovers_awaitingMarker hi hr hst hcause
    exact ⟨s, hrun, hempty, rfl⟩
  | accumulatingHeader => exact ⟨_, recovers_accumulatingHeader hi hr hst hcause, ⟨rfl, rfl, rfl, rfl⟩, rfl⟩
  | accumulatingPayload => rw [no_cause_accumulatingPayload hi hr hst] at hcause; cases hcause

end Sys2Proof
end

section
/-! SUPPORT and settlement of O35, O36, O52, O32, O34, O42, O43. The loop of R122 is `STEP` on each byte of `RXQ` in
order with the byte source's side kept apart; each of its iterations is one step of the machine. -/

namespace Sys2Proof.Machine

/-! ## The byte source -/

theorem srcGetOp_of_error {s : State} (he : s.srcTurn.error = true) :
    srcGetOp s = s.answerNone .error (s.rxq ++ s.srcTurn.arrive) := by
  rw [srcGetOp, if_pos he]

theorem srcGetOp_of_byte {s : State} {b : Byte} {r : List Byte} (hq : s.rxq = b :: r) (he : s.srcTurn.error = false) :
    srcGetOp s = s.answerByte b r.length (r ++ s.srcTurn.arrive) := by
  simp [srcGetOp, hq, he]

/-- A source with nothing planned is healthy. -/
theorem srcTurn_of_healthy {s : State} (h : s.srcPlan = []) : s.srcTurn = { error := false, arrive := [] } := by
  rw [State.srcTurn, h]
  rfl

theorem srcGetOp_of_healthy {s : State} {b : Byte} {r : List Byte} (h : s.srcPlan = []) (hq : s.rxq = b :: r) :
    srcGetOp s = s.answerByte b r.length r := by
  have hturn := srcTurn_of_healthy h
  rw [srcGetOp_of_byte hq (by rw [hturn]), hturn, List.append_nil]

/-! ## One `DRAIN` as a run of `STEP`s (R122, R131) -/

/-- What a drain of the whole queue starts from: a ready state of the invariant, a healthy source, a sink that always
returns. -/
structure Drainable (s : State) : Prop where
  inv : s.Inv
  ready : s.Ready
  returns : s.SinkAlwaysReturns
  healthy : s.srcPlan = []

/-- A byte step answers from such a state, and answers such a state. -/
theorem Drainable.answers_byte {s : State} (h : Drainable s) (b : Byte) :
    ∃ u, consumeByte b s = .next u ∧ Drainable u := by
  obtain ⟨u, _, hu, hinv, _⟩ := keepsInv_consumeByte h.inv b h.ready
  obtain ⟨hready, hreturns⟩ := consumeByte_returns h.ready h.returns hu
  have hframe := (consumeByte_frame hu).1.1
  exact ⟨u, hu, hinv, hready, hreturns, by rw [hframe]; exact h.healthy⟩

/-- The source's side of the state, apart from its plan, does not matter. -/
theorem Drainable.withEnv {s e : State} (h : Drainable s) (he : e.srcPlan = []) : Drainable (s.withEnv e) :=
  ⟨h.inv.congr rfl rfl rfl rfl rfl rfl rfl h.inv.config, ⟨h.ready.config, h.ready.sink, h.ready.idle⟩, h.returns,
    he⟩

theorem Drainable.answers_feed {s : State} (h : Drainable s) (x : List Byte) :
    ∃ u, feed x s = .next u ∧ Drainable u := by
  induction x generalizing s with
  | nil => exact ⟨s, rfl, h⟩
  | cons b r ih =>
    obtain ⟨v, hv, hd⟩ := h.answers_byte b
    obtain ⟨u, hu, hd'⟩ := ih hd
    exact ⟨u, by rw [feed_cons, hv, chain_next_left, hu], hd'⟩

/-- Feeding touches only the decoder. -/
theorem feed_frame {x : List Byte} {s t : State} (h : feed x s = .next t) : OnlyDecoder s t := by
  induction x generalizing s with
  | nil => cases h; exact .refl _
  | cons b r ih =>
    obtain ⟨u, hu, hr⟩ := chain_next.1 h
    exact (consumeByte_frame hu).1.trans (ih hr)

theorem feed_withEnv_next {x : List Byte} {s u : State} (h : feed x s = .next u) (e : State) :
    feed x (s.withEnv e) = .next (u.withEnv e) := by
  rw [feed_withEnv, h]
  rfl

/-- `u` once the source has handed over `n` bytes in all and holds no more. -/
def State.drained (u : State) (a : SrcAnswer) (ix n : Nat) : State :=
  { u with rxq := [], srcAns := a, freeIx := ix, consumed := n }

/-- The source's side is overwritten but for its plan; the transmit stream and the agenda no byte step touches. -/
theorem drained_withEnv {s u e : State} (hu : OnlyDecoder s u) (hplan : e.srcPlan = s.srcPlan)
    (hsent : e.transmitted = s.transmitted) (hagenda : e.agenda = s.agenda) (a : SrcAnswer) (ix n : Nat) :
    (u.withEnv e).drained a ix n = u.drained a ix n := by
  rw [hu.1, State.withEnv, State.drained, hplan, hsent, hagenda]
  rfl

/-- The loop over `b :: r`: the byte's `STEP`, then the loop over `r` unless nothing is left. -/
theorem drainLoop_byte {s v : State} {b : Byte} {r : List Byte} {fuel : Nat} (hd : Drainable s) (hq : s.rxq = b :: r)
    (hlen : r.length < 65536) (hv : consumeByte b s = .next v) :
    drainLoop (fuel + 1) s =
      if r = [] then .next (v.withEnv (srcGetOp s)) else drainLoop fuel (v.withEnv (srcGetOp s)) := by
  have hsrc := srcGetOp_of_healthy hd.healthy hq
  have hbyte : consumeByte b (srcGetOp s) = .next (v.withEnv (srcGetOp s)) := by
    rw [show srcGetOp s = s.withEnv (srcGetOp s) by rw [hsrc]; rfl, consumeByte_withEnv, hv]
    rfl
  have hidle : (v.withEnv (srcGetOp s)).busy = false := (consumeByte_returns hd.ready hd.returns hv).1.idle
  have hans : (srcGetOp s).srcAns = { status := .ok, byte := b, remaining := remainingOf s.freeIx r.length } := by
    rw [hsrc]; rfl
  have hleft : remainingOf s.freeIx r.length = 0 ↔ r = [] := by
    rw [remainingOf_eq_zero hlen, List.length_eq_zero_iff]
  rw [drainLoop, hans, if_pos rfl, hbyte, chain_next_left, afterStep, hidle]
  simp only [hleft]
  rfl

theorem drainLoop_empty {s : State} {fuel : Nat} (hd : Drainable s) (hq : s.rxq = []) :
    drainLoop (fuel + 1) s = .next (s.drained (srcGetOp s).srcAns (s.freeIx + 1) s.consumed) := by
  have hturn := srcTurn_of_healthy hd.healthy
  have hsrc := srcGetOp_of_empty hq (by rw [hturn])
  rw [drainLoop, if_neg (by rw [hsrc]; nofun)]
  simp [hsrc, hturn, State.answerNone, State.drained, hd.healthy]

/-- The loop of R122 over the whole of `RXQ` ends where `STEP` on each byte in order ends. -/
theorem drainLoop_eq_feed {q : List Byte} {s : State} {fuel : Nat} (hd : Drainable s) (hq : s.rxq = q)
    (hlen : q.length ≤ 65536) (hfuel : q.length < fuel) :
    ∃ u a ix, feed q s = .next u ∧ Drainable u ∧
      drainLoop fuel s = .next (u.drained a ix (s.consumed + q.length)) := by
  obtain ⟨fuel, rfl⟩ : ∃ k, fuel = k + 1 := ⟨fuel - 1, by omega⟩
  induction q generalizing s fuel with
  | nil => exact ⟨s, _, _, rfl, hd, drainLoop_empty hd hq⟩
  | cons b r ih =>
    rw [List.length_cons] at hlen hfuel
    obtain ⟨v, hv, hdv⟩ := hd.answers_byte b
    obtain ⟨hsv, _⟩ := consumeByte_frame hv
    have hsrc := srcGetOp_of_healthy hd.healthy hq
    have hplan : (srcGetOp s).srcPlan = s.srcPlan := by rw [srcGetOp_srcPlan, hd.healthy, List.tail_nil]
    have hdrained {u : State} (hu : OnlyDecoder s u) :=
      drained_withEnv hu hplan (srcGetOp_transmitted s) (srcGetOp_agenda s)
    rw [drainLoop_byte hd hq (by omega) hv, feed_cons, hv, chain_next_left]
    by_cases hr : r = []
    · subst hr
      refine ⟨v, (srcGetOp s).srcAns, (srcGetOp s).freeIx, rfl, hdv, ?_⟩
      rw [if_pos rfl, ← hdrained hsv]
      simp [hsrc, State.withEnv, State.drained]
    · have hrest : (v.withEnv (srcGetOp s)).rxq = r := by simp [State.withEnv, hsrc]
      have hconsumed : (v.withEnv (srcGetOp s)).consumed = s.consumed + 1 := by simp [State.withEnv, hsrc]
      obtain ⟨fuel, rfl⟩ : ∃ k, fuel = k + 1 := ⟨fuel - 1, by omega⟩
      obtain ⟨w, a, ix, hw, _, hloop⟩ :=
        ih (hdv.withEnv (hplan.trans hd.healthy)) hrest (by omega) fuel (by omega)
      obtain ⟨u, hu, hdu⟩ := hdv.answers_feed r
      obtain rfl : u.withEnv (srcGetOp s) = w := Host.Outcome.next.inj ((feed_withEnv_next hu _).symm.trans hw)
      refine ⟨u, a, ix, hu, hdu, ?_⟩
      rw [if_neg hr, hloop, hdrained (hsv.trans (feed_frame hu)), hconsumed, List.length_cons, Nat.add_assoc,
        Nat.add_comm 1]

theorem supply_of_healthy {s : State} (h : s.srcPlan = []) : s.supply = s.rxq.length := by
  rw [State.supply, h]
  rfl

theorem exec_drain_eq_feed {s : State} (hd : Drainable s) (hlen : s.rxq.length ≤ 65536) :
    ∃ u a ix, feed s.rxq s = .next u ∧ Drainable u ∧
      exec .drain s = .next (u.drained a ix (s.consumed + s.rxq.length)) := by
  have hfuel : s.rxq.length < s.supply + 1 := by rw [supply_of_healthy hd.healthy]; omega
  obtain ⟨u, a, ix, hu, hdu, hloop⟩ := drainLoop_eq_feed hd rfl hlen hfuel
  exact ⟨u, a, ix, hu, hdu, (whenReady_of_ready hd.ready _).trans hloop⟩

/-- The same for a queue, a count and a latest answer taken from `e`. -/
theorem exec_drain_withEnv {s e : State} (hd : Drainable s) (hplan : e.srcPlan = s.srcPlan)
    (hsent : e.transmitted = s.transmitted) (hagenda : e.agenda = s.agenda) (hlen : e.rxq.length ≤ 65536) :
    ∃ u a ix, feed e.rxq s = .next u ∧ Drainable u ∧
      exec .drain (s.withEnv e) = .next (u.drained a ix (e.consumed + e.rxq.length)) := by
  obtain ⟨u, hu, hdu⟩ := hd.answers_feed e.rxq
  obtain ⟨v, a, ix, hv, _, hdrain⟩ := exec_drain_eq_feed (hd.withEnv (hplan.trans hd.healthy)) hlen
  obtain rfl : u.withEnv e = v := Host.Outcome.next.inj ((feed_withEnv_next hu e).symm.trans hv)
  rw [drained_withEnv (feed_frame hu) hplan hsent hagenda] at hdrain
  exact ⟨u, a, ix, hu, hdu, hdrain⟩

/-! ## A `DRAIN` as a run of single steps (R122, R125) -/

/-- After an `Ok` answer with a `remaining` that does not end the loop, the queue holds another byte. -/
theorem rxq_ne_nil_of_remaining {s : State} (hok : (srcGetOp s).srcAns.status = .ok)
    (hrem : (srcGetOp s).srcAns.remaining ≠ 0) : (srcGetOp s).rxq ≠ [] := by
  rcases srcGetOp_cases s with ⟨_, h⟩ | ⟨_, _, h⟩ | ⟨b, r, _, _, h⟩
  · rw [h] at hok; cases hok
  · rw [h] at hok; cases hok
  · rw [h, State.answerByte_srcAns] at hrem
    rw [h, State.answerByte_rxq]
    cases r with
    | nil => exact absurd rfl hrem
    | cons c r => nofun

theorem drainLoop_steps {fuel : Nat} {s t : State} (ha : s.agenda = []) (hq : s.rxq ≠ []) (hc : s.configOk = true)
    (hb : s.busy = false) (h : drainLoop fuel s = .next t) : ∃ k, steps k s = .next t := by
  induction fuel generalizing s with
  | zero => exact ⟨0, h⟩
  | succ fuel ih =>
    have hstep := step_idle ha hb hq hc
    rw [drainLoop] at h
    split at h <;> rename_i hans
    · obtain ⟨v, hv, hafter⟩ := chain_next.1 h
      rw [if_pos hans, hv] at hstep
      have hlast (hvt : v = t) : ∃ k, steps k s = .next t := ⟨1, by rw [steps, hstep, hvt]; rfl⟩
      unfold afterStep at hafter
      split at hafter
      · exact hlast (Host.Outcome.next.inj hafter)
      split at hafter
      · exact hlast (Host.Outcome.next.inj hafter)
      · rename_i hidle hrem
        obtain ⟨⟨hframe, _⟩, _⟩ := consumeByte_frame hv
        have hagenda : v.agenda = [] := by rw [hframe]; exact (srcGetOp_agenda s).trans ha
        have hqueue : v.rxq ≠ [] := by rw [hframe]; exact rxq_ne_nil_of_remaining hans hrem
        have hconfig : v.configOk = true := by rw [hframe]; exact (consumeByte_next.1 hv).1.config
        obtain ⟨k, hk⟩ := ih hagenda hqueue hconfig (by simpa using hidle) hafter
        exact ⟨k + 1, by rw [steps, hstep, chain_next_left, hk]⟩
    · rw [if_neg hans, h] at hstep
      exact ⟨1, by rw [steps, hstep]; rfl⟩

end Sys2Proof.Machine

namespace Sys2Proof

open Machine

/-- Settles O35. -/
theorem drainConsumesQueue : Obligations.DrainConsumesQueue := by
  intro s hi hr hsink hplan hlen
  obtain ⟨u, a, ix, hu, _, hdrain⟩ := exec_drain_eq_feed ⟨hi, hr, hsink, hplan⟩ hlen
  exact ⟨_, u, hdrain, hu, rfl⟩

/-- Settles O36: one step of the machine for each iteration of the loop. -/
theorem drainIsRunOfSteps : Obligations.DrainIsRunOfSteps := by
  intro s t ha hq h
  obtain ⟨hr, hloop⟩ := whenReady_next.1 h
  exact drainLoop_steps ha hq hr.config hr.idle hloop

/-- Settles O52: both sides are `STEP` on each byte of `x ++ y`, by the chunks or at once. -/
theorem chunkInvariance : Obligations.ChunkInvariance := by
  intro s x y hi hr hsink hplan _ hlen
  have hd : Drainable s := ⟨hi, hr, hsink, hplan⟩
  rw [List.length_append] at hlen
  obtain ⟨u1, a1, ix1, hu1, hd1, hdrain1⟩ :=
    exec_drain_withEnv hd (e := { s with rxq := x }) rfl rfl rfl (show x.length ≤ 65536 by omega)
  obtain ⟨u2, a2, ix2, hu2, _, hdrain2⟩ := exec_drain_withEnv hd1
    (e := { u1.drained a1 ix1 (s.consumed + x.length) with rxq := y }) rfl rfl rfl (show y.length ≤ 65536 by omega)
  obtain ⟨u, a, ix, hu, _, hdrain⟩ := exec_drain_withEnv hd (e := { s with rxq := x ++ y }) rfl rfl rfl
    (show (x ++ y).length ≤ 65536 by rw [List.length_append]; omega)
  have hxy : feed (x ++ y) s = .next u2 := by rw [feed_append, hu1, chain_next_left, hu2]
  obtain rfl : u = u2 := Host.Outcome.next.inj (hu.symm.trans hxy)
  refine ⟨_, _, _, hdrain1, hdrain2, hdrain, ?_⟩
  simp only [List.length_append, ← Nat.add_assoc]
  rfl

/-- Settles O34: the loop ends with the first answer that brings no byte. -/
theorem drainOnSourceErrorKeepsState : Obligations.DrainOnSourceErrorKeepsState := by
  intro s hr he
  have hsrc := srcGetOp_of_error he
  have hdrain := exec_drain_of_no_byte hr (by rw [hsrc]; nofun)
  rw [hsrc] at hdrain
  exact ⟨_, hdrain, rfl, rfl⟩

/-- Settles O32, one answer of R120 at a time. -/
theorem sourceAnswers : Obligations.SourceAnswers := by
  intro s hc hb
  refine ⟨srcGetOp s, whenIdle_of_idle hc hb _, by rw [srcGetOp_frame], ?_⟩
  rcases srcGetOp_cases s with ⟨he, h⟩ | ⟨he, hq, h⟩ | ⟨b, r, he, hq, h⟩
  · rw [if_pos he, h]
    exact ⟨rfl, rfl, rfl⟩
  · rw [if_neg (by simp [he]), h, hq]
    exact ⟨rfl, rfl, rfl⟩
  · rw [if_neg (by simp [he]), h, hq]
    exact ⟨rfl, rfl, fun hlt => remainingOf_toNat hlt, rfl, rfl⟩

/-- Settles O42: the row a byte decodes to consumes that byte. -/
theorem stepRunsDecodedInstruction : Obligations.StepRunsDecodedInstruction := by
  intro s b r rest i hc ha hb hq he hdecode
  have hsrc := srcGetOp_of_byte hq he
  have hstep := step_idle ha hb (by rw [hq]; nofun) hc
  rw [if_pos (by rw [hsrc]; rfl)] at hstep
  have hbyte : (srcGetOp s).srcAns.byte = b := by rw [hsrc]; rfl
  refine ⟨srcGetOp s, ?_, ?_, by rw [hsrc]; rfl, hbyte⟩
  · rw [hstep, hbyte, exec_row (srcGetOp_cfg s) hdecode]
  · rw [hsrc]
    rfl

/-- Settles O43, one kind of event at a time. -/
theorem stepTakesPendingEvents : Obligations.StepTakesPendingEvents := by
  intro s
  refine ⟨fun bytes rest ha => ?_, fun r rest ha => ?_, fun ha hrest => ?_⟩
  · rw [step, ha]
    rfl
  · rw [step, ha]
    rfl
  · rcases hrest with hb | hq
    · rw [step, ha]
      exact if_pos hb
    · exact step_at_rest ha hq

end Sys2Proof
end

section
/-! SUPPORT and settlement of O41, O37, O38, O39. No operation of the decoder reads or writes the transmit stream, and
no operation writes the configuration, the only thing the encoder reads (D21). -/

namespace Sys2Proof.Machine

/-! ## What joins the transmit stream -/

/-- `s` with the frames `out` emitted. -/
def State.emit (s : State) (out : List (List Byte)) : State := { s with transmitted := s.transmitted ++ out }

theorem srcGetOp_emit (s : State) (out : List (List Byte)) : srcGetOp (s.emit out) = (srcGetOp s).emit out := by
  unfold srcGetOp
  rw [show (s.emit out).srcTurn = s.srcTurn from rfl, show (s.emit out).rxq = s.rxq from rfl]
  split
  · rfl
  · cases s.rxq <;> rfl

/-! ## Operations apart from the encoder -/

/-- `op` neither reads nor writes the transmit stream, and it keeps the configuration. -/
def ApartFromEncoder (op : State → Result) : Prop :=
  ∀ s out, op (s.emit out) = mapNext (·.emit out) (op s) ∧ ∀ u, op s = .next u → u.cfg = s.cfg

theorem apart_next {f : State → State} (hf : ∀ s out, f (s.emit out) = (f s).emit out) (hcfg : ∀ s, (f s).cfg = s.cfg) :
    ApartFromEncoder fun s => .next (f s) := fun s out =>
  ⟨congrArg Host.Outcome.next (hf s out), fun u hu => by cases hu; exact hcfg s⟩

theorem apart_refused (r : Refusal) : ApartFromEncoder fun _ => .refused r := fun _ _ => ⟨rfl, nofun⟩

theorem ApartFromEncoder.ite {c : State → Prop} [DecidablePred c] {f g : State → Result}
    (hc : ∀ s out, c (s.emit out) ↔ c s) (hf : ApartFromEncoder f) (hg : ApartFromEncoder g) :
    ApartFromEncoder fun s => if c s then f s else g s := by
  intro s out
  by_cases h : c s
  · simpa only [if_pos h, if_pos ((hc s out).2 h)] using hf s out
  · simpa only [if_neg h, if_neg (mt (hc s out).1 h)] using hg s out

theorem ApartFromEncoder.whenReady {f : State → Result} (hf : ApartFromEncoder f) :
    ApartFromEncoder fun s => whenReady s (f s) := by
  intro s out
  unfold Machine.whenReady
  beta_reduce
  rw [show (s.emit out).notReady = s.notReady from rfl]
  cases s.notReady with
  | some e => exact ⟨rfl, nofun⟩
  | none => exact hf s out

theorem ApartFromEncoder.whenIdle {f : State → Result} (hf : ApartFromEncoder f) :
    ApartFromEncoder fun s => whenIdle s (f s) := by
  intro s out
  unfold Machine.whenIdle
  beta_reduce
  rw [show (s.emit out).notIdle = s.notIdle from rfl]
  cases s.notIdle with
  | some e => exact ⟨rfl, nofun⟩
  | none => exact hf s out

/-- What commutes with any change of the fields no byte step touches, and touches none of them. -/
theorem apart_of_withEnv {op : State → Result} (henv : ∀ e s, op (s.withEnv e) = mapNext (·.withEnv e) (op s))
    (hframe : ∀ s u, op s = .next u → OnlyDecoder s u) : ApartFromEncoder op := by
  intro s out
  refine ⟨?_, fun u hu => by rw [(hframe s u hu).1]⟩
  rw [show s.emit out = s.withEnv (s.emit out) from rfl, henv]
  cases hop : op s with
  | next u =>
    obtain ⟨hu, _⟩ := hframe s u hop
    rw [mapNext_next, mapNext_next, hu]
    rfl
  | fault r => rfl
  | refused r => rfl

theorem emitDispatch_frame {s u : State} (h : emitDispatch s = .next u) : OnlyDecoder s u := by
  obtain ⟨t, _, n, _, _, _, _, rfl⟩ := emitDispatch_next.1 h
  exact ⟨rfl, [packetOf s t n], rfl⟩

theorem apart_runOp (op : StepOp) (b : Byte) : ApartFromEncoder (runOp op b) :=
  apart_of_withEnv (fun e s => runOp_withEnv e op b s) fun _ _ h => (runOp_frame h).1

theorem apart_consumeByte (b : Byte) : ApartFromEncoder (consumeByte b) :=
  apart_of_withEnv (fun e s => consumeByte_withEnv e b s) fun _ _ h => (consumeByte_frame h).1

theorem apart_completeOp : ApartFromEncoder completeOp :=
  apart_of_withEnv completeOp_withEnv fun _ _ h => (completeOp_frame h).1

theorem apart_emitDispatch : ApartFromEncoder emitDispatch :=
  apart_of_withEnv emitDispatch_withEnv fun _ _ h => emitDispatch_frame h

theorem ApartFromEncoder.afterStep {next : State → Result} (h : ApartFromEncoder next) (remaining : U16) :
    ApartFromEncoder (afterStep remaining next) :=
  .ite (fun _ _ => Iff.rfl) (apart_next (fun _ _ => rfl) fun _ => rfl)
    (.ite (fun _ _ => Iff.rfl) (apart_next (fun _ _ => rfl) fun _ => rfl) h)

theorem ApartFromEncoder.chain {f g : State → Result} (hf : ApartFromEncoder f) (hg : ApartFromEncoder g) :
    ApartFromEncoder fun s => chain (f s) g := by
  intro s out
  obtain ⟨hemit, hcfg⟩ := hf s out
  refine ⟨?_, fun u hu => ?_⟩
  · beta_reduce
    rw [hemit]
    exact chain_mapNext _ _ fun v => (hg v out).1
  · obtain ⟨v, hv, hu⟩ := chain_next.1 hu
    exact ((hg v out).2 u hu).trans (hcfg v hv)

theorem apart_drainLoop (fuel : Nat) : ApartFromEncoder (drainLoop fuel) := by
  induction fuel with
  | zero => exact apart_next (fun _ _ => rfl) fun _ => rfl
  | succ fuel ih =>
    have hsrc : ApartFromEncoder fun s => .next (srcGetOp s) := apart_next srcGetOp_emit srcGetOp_cfg
    have hbyte : ApartFromEncoder fun s => if s.srcAns.status = .ok then
        Machine.chain (consumeByte s.srcAns.byte s) (afterStep s.srcAns.remaining (drainLoop fuel)) else .next s :=
      .ite (fun _ _ => Iff.rfl)
        (fun s => (apart_consumeByte s.srcAns.byte).chain (ih.afterStep s.srcAns.remaining) s)
        (apart_next (fun _ _ => rfl) fun _ => rfl)
    exact hsrc.chain hbyte

theorem ApartFromEncoder.whenCompleting {f : State → Result} (hf : ApartFromEncoder f) :
    ApartFromEncoder fun s => whenCompleting s (f s) :=
  .whenReady (.ite (fun _ _ => Iff.rfl) hf (apart_refused _))

theorem apart_exec_byteInstr (op : StepOp) (b : Byte) : ApartFromEncoder (exec (byteInstr op b)) := by
  rw [funext (exec_byteInstr op b)]
  exact .whenReady (.ite (fun _ _ => Iff.rfl) (apart_runOp op b) (apart_refused _))

/-- R53, R149 for every operation that is not the encoder's. -/
theorem apart_exec {d : Instr} (hd : isEncoder d = false) : ApartFromEncoder (exec d) := by
  cases d with
  | hciCmd => exact fun s => apart_consumeByte (marker s.cfg .command) s
  | hciAcl => exact fun s => apart_consumeByte (marker s.cfg .aclData) s
  | hciSync => exact fun s => apart_consumeByte (marker s.cfg .synchronousData) s
  | hciEvt => exact fun s => apart_consumeByte (marker s.cfg .event) s
  | notAMarker b => exact .ite (fun _ _ => Iff.rfl) (apart_consumeByte b) (apart_refused _)
  | stepByte b => exact apart_consumeByte b
  | drop b => exact apart_exec_byteInstr .drop b
  | markCmd b => exact apart_exec_byteInstr .markCmd b
  | markAcl b => exact apart_exec_byteInstr .markAcl b
  | markEvt b => exact apart_exec_byteInstr .markEvt b
  | markSync b => exact apart_exec_byteInstr .markSync b
  | hdrAcc b => exact apart_exec_byteInstr .hdrAcc b
  | hdrRejSync b => exact apart_exec_byteInstr .hdrRejSync b
  | hdrEndCmd b => exact apart_exec_byteInstr .hdrEndCmd b
  | hdrEndEvt b => exact apart_exec_byteInstr .hdrEndEvt b
  | hdrEndAcl b => exact apart_exec_byteInstr .hdrEndAcl b
  | payAcc b => exact apart_exec_byteInstr .payAcc b
  | payEnd b => exact apart_exec_byteInstr .payEnd b
  | complete => exact apart_completeOp.whenCompleting
  | resync cause => exact .whenReady (apart_next (fun _ _ => rfl) fun _ => rfl)
  | srcGet => exact .whenIdle (apart_next srcGetOp_emit srcGetOp_cfg)
  | drain => exact .whenReady fun s => apart_drainLoop (s.supply + 1) s
  | dispatch => exact apart_emitDispatch.whenCompleting
  | reset => exact .whenIdle (apart_next (fun _ _ => rfl) fun _ => rfl)
  | config v =>
    exact .ite (fun _ _ => Iff.rfl) (apart_refused _) (.ite (fun _ _ => Iff.rfl) (apart_refused _)
      (.ite (fun _ _ => Iff.rfl) (apart_next (fun _ _ => rfl) fun _ => rfl) (apart_next (fun _ _ => rfl) fun _ => rfl)))
  | encFrame | encCmd | encAcl | encEvt | txFrame => cases hd

/-! ## Frames within `TX_CAP` -/

theorem fitsTx_iff {c : Config} {n : Nat} : fitsTx c n = true ↔ ∀ cap, c.txCap = some cap → n ≤ cap := by
  unfold fitsTx
  cases c.txCap <;> simp

theorem encodeFrame_of_fits {s : State} (hok : encoderConfigOk s.cfg = true) {t : PacketType} {bytes : List Byte}
    (hfits : ∀ cap, s.cfg.txCap = some cap → bytes.length + 1 ≤ cap) :
    encodeFrame t bytes s = .next { s with transmitted := s.transmitted ++ [marker s.cfg t :: bytes] } := by
  refine encodeFrame_next.2 ⟨hok, ?_⟩
  rw [if_pos (fitsTx_iff.2 hfits)]
  rfl

theorem encodeFrame_of_over {s : State} (hok : encoderConfigOk s.cfg = true) {t : PacketType} {bytes : List Byte}
    {cap : Nat} (hcap : s.cfg.txCap = some cap) (hover : cap < bytes.length + 1) : encodeFrame t bytes s = .next s := by
  refine encodeFrame_next.2 ⟨hok, ?_⟩
  rw [if_neg fun h => absurd (fitsTx_iff.1 h cap hcap) (by omega)]

end Sys2Proof.Machine

namespace Sys2Proof

open Machine

/-- Settles O41: `e` adds the same frames before and after `d`, and `d` does the same without and with them. -/
theorem encoderCommutesWithDecoder : Obligations.EncoderCommutesWithDecoder := by
  intro e d s s1 s2 he hd h1 h2
  have hcfg : s2.cfg = s.cfg := (apart_exec hd s []).2 s2 h2
  obtain ⟨out, rfl, hframes⟩ := exec_emitsAlike (u := s2) (by rw [hcfg]) he s1 h1
  have hemit : exec d (s.emit out) = .next (s2.emit out) := by rw [(apart_exec hd s out).1, h2]; rfl
  exact ⟨_, hemit, hframes⟩

/-- Settles O37. -/
theorem encoderFramesOrTurnsAway : Obligations.EncoderFramesOrTurnsAway := by
  intro s t bytes hok
  exact ⟨encodeFrame_of_fits hok, fun _ => encodeFrame_of_over hok⟩

/-- Settles O38: each field-level request is `ENC.FRAME` on the packed header and the payload. -/
theorem fieldEncodersPack : Obligations.FieldEncodersPack := by
  intro s hok
  refine ⟨fun opcode plen params hfits => ?_, fun handle pb bc dlen data w hfits hw => ?_,
    fun code len data hfits => ?_, fun opcode plen params cap hcap hover => ?_,
    fun handle pb bc dlen data cap hcap hover => ?_, fun code len data cap hcap hover => ?_⟩
  · exact encodeFrame_of_fits hok fun cap hcap => by have := hfits cap hcap; simp [packCmd]; omega
  · have hword : w = aclWord handle pb bc := BitVec.eq_of_toNat_eq (hw.trans (aclWord_toNat handle pb bc).symm)
    rw [hword]
    exact encodeFrame_of_fits hok fun cap hcap => by have := hfits cap hcap; simp [packAcl]; omega
  · exact encodeFrame_of_fits hok fun cap hcap => by have := hfits cap hcap; simp [packEvt]; omega
  · exact encodeFrame_of_over hok hcap (by simp [packCmd]; omega)
  · exact encodeFrame_of_over hok hcap (by simp [packAcl]; omega)
  · exact encodeFrame_of_over hok hcap (by simp [packEvt]; omega)

/-- Settles O39: the marker makes it a frame (R147). -/
theorem frameHandedOver : Obligations.FrameHandedOver := by
  intro s t bytes hok hfits
  have hmarker := typeOf_marker (markersDistinct_of_encoderConfigOk hok) t
  refine execTxFrame_next.2 ⟨hok, ?_, rfl⟩
  rw [isFrame, hmarker, fitsTx_iff.2 hfits]
  rfl

end Sys2Proof
end

section
/-! SUPPORT. What the decoder holds between two bytes, said by the bytes of the packet in flight: the registers and the
part of `BUF` that will be read are a function of the packet's type and of the bytes since its marker. -/

namespace Sys2Proof.Machine

/-! ## The bytes of a packet in flight -/

/-- A header is as long as its type says. -/
theorem headerSize_of_headerLength {t : PacketType} {l : List Byte} {d : Nat} (h : headerLength t l = some d) :
    headerSize t = some l.length := by
  unfold headerLength at h
  split at h
  · rfl
  · rfl
  · rfl
  · cases h

/-- Only the `AclData` length field has 16 bits. -/
theorem headerLength_le {t : PacketType} {l : List Byte} {d : Nat} (h : headerLength t l = some d)
    (hacl : t ≠ .aclData) : d ≤ 255 := by
  unfold headerLength at h
  split at h
  · rename_i b
    cases h
    exact Nat.le_of_lt_succ b.isLt
  · exact absurd rfl hacl
  · rename_i b
    cases h
    exact Nat.le_of_lt_succ b.isLt
  · cases h

/-- The bytes since the marker are an `AclData` header that declares more than the bound (R101). -/
def Oversized (bound : U16) (t : PacketType) (l : List Byte) : Prop :=
  t = .aclData ∧ ∃ d, headerLength t l = some d ∧ bound.toNat < d

/-- The bytes since the marker are a header and the payload it declares (R102, R106). -/
def Complete (t : PacketType) (l : List Byte) : Prop :=
  ∃ h d, headerSize t = some h ∧ headerLength t (l.take h) = some d ∧ l.length = h + d

/-- The bytes since the marker do not end the packet. -/
structure Waiting (bound : U16) (t : PacketType) (l : List Byte) : Prop where
  accepted : ¬ Oversized bound t l
  incomplete : ¬ Complete t l

theorem Oversized.length {bound : U16} {t : PacketType} {l : List Byte} {h : Nat} (hover : Oversized bound t l)
    (hsize : headerSize t = some h) : l.length = h := by
  obtain ⟨_, d, hd, _⟩ := hover
  exact Option.some.inj ((headerSize_of_headerLength hd).symm.trans hsize)

/-- The total length of a complete packet is fixed by its header. -/
theorem complete_iff {t : PacketType} {l : List Byte} {h d : Nat} (hsize : headerSize t = some h)
    (hd : headerLength t (l.take h) = some d) : Complete t l ↔ l.length = h + d := by
  constructor
  · rintro ⟨k, e, hk, he, hl⟩
    obtain rfl : h = k := Option.some.inj (hsize.symm.trans hk)
    obtain rfl : d = e := Option.some.inj (hd.symm.trans he)
    exact hl
  · exact fun hl => ⟨h, d, hsize, hd, hl⟩

theorem not_complete_of_short {t : PacketType} {l : List Byte} {h : Nat} (hsize : headerSize t = some h)
    (hl : l.length < h) : ¬ Complete t l := by
  rintro ⟨k, e, hk, _, hlen⟩
  obtain rfl : h = k := Option.some.inj (hsize.symm.trans hk)
  omega

/-! ## The decoder between two bytes of a packet -/

/-- The bytes `l` of a packet of type `t` have been stored, the header of `h` bytes is not complete. -/
structure State.GathersHeader (s : State) (t : PacketType) (h : Nat) (l : List Byte) : Prop where
  st : s.st = .accumulatingHeader
  packet : s.mkTag = some t
  size : headerSize t = some h
  short : l.length < h
  cnt : s.cnt = BitVec.ofNat 16 (l.length + 1)
  explen : s.explen = none
  bytes : s.buf.readFrom 0 l.length = l

/-- The bytes `l` of a packet of type `t` have been stored, the header declares `d` bytes of payload, not all of them
stored. -/
structure State.GathersPayload (s : State) (t : PacketType) (h d : Nat) (l : List Byte) : Prop where
  st : s.st = .accumulatingPayload
  packet : s.mkTag = some t
  size : headerSize t = some h
  long : h ≤ l.length
  declared : headerLength t (l.take h) = some d
  short : l.length < h + d
  fits : h + d ≤ s.cfg.bufCap
  cnt : s.cnt = BitVec.ofNat 16 l.length
  explen : s.explen = some (BitVec.ofNat 16 (h + d))
  bytes : s.buf.readFrom 0 l.length = l

/-- A packet of type `t` is in flight, its bytes so far are `l`. -/
inductive State.Gathers (s : State) (t : PacketType) (l : List Byte) : Prop
  | header {h : Nat} (hg : s.GathersHeader t h l)
  | payload {h d : Nat} (hg : s.GathersPayload t h d l)

/-- The registers are a function of the bytes in flight. -/
theorem State.Gathers.registers_eq {s u : State} {t : PacketType} {l : List Byte} (hs : s.Gathers t l)
    (hu : u.Gathers t l) : u.st = s.st ∧ u.mkTag = s.mkTag ∧ u.cnt = s.cnt ∧ u.explen = s.explen := by
  cases hs with
  | header hs =>
    cases hu with
    | header hu =>
      exact ⟨hu.st.trans hs.st.symm, hu.packet.trans hs.packet.symm, hu.cnt.trans hs.cnt.symm,
        hu.explen.trans hs.explen.symm⟩
    | payload hu =>
      have hsize := Option.some.inj (hs.size.symm.trans hu.size)
      have hlong := hu.long
      have hshort := hs.short
      omega
  | payload hs =>
    cases hu with
    | header hu =>
      have hsize := Option.some.inj (hs.size.symm.trans hu.size)
      have hlong := hs.long
      have hshort := hu.short
      omega
    | payload hu =>
      obtain rfl := Option.some.inj (hs.size.symm.trans hu.size)
      obtain rfl := Option.some.inj (hs.declared.symm.trans hu.declared)
      exact ⟨hu.st.trans hs.st.symm, hu.packet.trans hs.packet.symm, hu.cnt.trans hs.cnt.symm,
        hu.explen.trans hs.explen.symm⟩

/-- What a byte does to a packet in flight, `l` being the packet's bytes with it. The conditions are on `l` alone, so
they tell which case it is. -/
inductive ByteOutcome (s : State) (t : PacketType) (l : List Byte) (u : State) : Prop
  | rejected (hover : Oversized s.maxAclLen t l) (hu : u = { s.emptied with buf := u.buf })
  | completed (hok : ¬ Oversized s.maxAclLen t l) (hdone : Complete t l) {m : Memory} {n : U16}
      (hn : n.toNat = l.length) (hu : u = s.handOver m n { ptype := t, bytes := l, length := n })
  | gathers (hwait : Waiting s.maxAclLen t l) (hg : u.Gathers t l)
      (hu : u = { s with st := u.st, cnt := u.cnt, explen := u.explen, buf := u.buf })

/-- A byte is a marker of a supported type, or opens no packet (R61, R62). -/
theorem typeOf_cases (c : Config) (b : Byte) :
    (typeOf c b = none ∨ typeOf c b = some .synchronousData) ∨
      ∃ q h, typeOf c b = some q ∧ headerSize q = some h := by
  cases htype : typeOf c b with
  | none => exact .inl (.inl rfl)
  | some q =>
    cases hsize : headerSize q with
    | some h => exact .inr ⟨q, h, rfl, hsize⟩
    | none =>
      cases q <;> cases hsize
      exact .inl (.inr rfl)

section
variable {s : State} (hr : s.Ready) {t : PacketType} {h : Nat} {l : List Byte} (b : Byte)
include hr

/-- A header byte before the last (R97). -/
theorem State.GathersHeader.answers_hdrAcc (hg : s.GathersHeader t h l) (hshort : l.length + 1 < h) :
    ∃ u, consumeByte b s = .next u ∧ ByteOutcome s t (l ++ [b]) u := by
  obtain ⟨_, hcap, _, _⟩ := hr.limits
  have hle := headerSize_le hg.size
  have hlen : (l ++ [b]).length = l.length + 1 := by simp
  have hcnt : s.cnt.toNat = l.length + 1 := by rw [hg.cnt, BitVec.toNat_ofNat]; omega
  have hsel := select_accumulatingHeader hg.st hg.packet hg.size (by omega) (by omega) b
  rw [if_pos (by omega)] at hsel
  have hrun : consumeByte b s = opHdrAcc b s := consumeByte_of_select hr hsel
  rw [opHdrAcc_eq (by omega), show s.cnt.toNat - 1 = l.length by omega] at hrun
  refine ⟨_, hrun, .gathers ⟨fun hover => ?_, not_complete_of_short hg.size (by omega)⟩ (.header (h := h) ?_) rfl⟩
  · have := hover.length hg.size
    omega
  · refine ⟨hg.st, hg.packet, hg.size, by omega, ?_, hg.explen, ?_⟩
    · rw [State.setCnt_cnt, hg.cnt, hlen, BitVec.ofNat_add (l.length + 1) 1]
      rfl
    · rw [hlen, State.setCnt_buf, State.putByte_buf, readFrom_write_snoc, hg.bytes]

/-- The last header byte (R99, R100, R101). -/
theorem State.GathersHeader.answers_headerEnd (hg : s.GathersHeader t h l) (hlast : l.length + 1 = h) :
    ∃ u, consumeByte b s = .next u ∧ ByteOutcome s t (l ++ [b]) u := by
  have hle := headerSize_le hg.size
  have hlen : (l ++ [b]).length = h := by simp [hlast]
  have hcnt : s.cnt.toNat = h := by rw [hg.cnt, BitVec.toNat_ofNat]; omega
  have hh : (BitVec.ofNat 16 h).toNat = h := by rw [BitVec.toNat_ofNat]; omega
  have hsel := select_headerEnd hg.st hg.packet hg.size hcnt b
  cases hop : headerEndOp t with
  | none => cases t <;> cases hop; cases hg.size
  | some op =>
    obtain ⟨d, u, hd, hu, hended⟩ := runOp_headerEnd_ended hr hg.packet hg.size hop b
    rw [HeaderEnded, show h - 1 = l.length by omega, hg.bytes] at hended
    rw [show h - 1 = l.length by omega, hg.bytes] at hd
    refine ⟨u, (consumeByte_of_select hr (hsel.trans hop)).trans hu, ?_⟩
    have htake : (l ++ [b]).take h = l ++ [b] := List.take_of_length_le (by omega)
    have hdone := complete_iff hg.size (l := l ++ [b]) (d := d) (by rw [htake, hd])
    by_cases hover : t = .aclData ∧ s.maxAclLen.toNat < d
    · rw [if_pos hover] at hended
      exact .rejected ⟨hover.1, d, hd, hover.2⟩ (by rw [hended])
    have hok : ¬ Oversized s.maxAclLen t (l ++ [b]) := by
      rintro ⟨ht, e, he, hlt⟩
      obtain rfl := Option.some.inj (hd.symm.trans he)
      exact hover ⟨ht, hlt⟩
    rw [if_neg hover] at hended
    by_cases hzero : d = 0
    · rw [if_pos hzero] at hended
      exact .completed hok (hdone.2 (by omega)) (hh.trans hlen.symm) hended
    · rw [if_neg hzero] at hended
      obtain ⟨n, hn, hfits, rfl⟩ := hended
      have hexplen : n = BitVec.ofNat 16 (h + d) := by rw [← hn, BitVec.ofNat_toNat, BitVec.setWidth_eq]
      refine .gathers ⟨hok, fun hdone' => hzero (by have := hdone.1 hdone'; omega)⟩ (.payload (h := h) (d := d) ?_) rfl
      refine ⟨rfl, hg.packet, hg.size, by omega, by rw [htake, hd], by omega, hfits, ?_, ?_, ?_⟩
      · rw [hlen]; rfl
      · rw [← hexplen]; rfl
      · rw [hlen, ← hlast, State.enterPayload_buf, State.putByte_buf, readFrom_write_snoc, hg.bytes]

/-- A payload byte (R105, R106). -/
theorem State.GathersPayload.answers {d : Nat} (hg : s.GathersPayload t h d l) :
    ∃ u, consumeByte b s = .next u ∧ ByteOutcome s t (l ++ [b]) u := by
  obtain ⟨_, _, hmax, _⟩ := hr.limits
  have hlong := hg.long
  have hshort := hg.short
  have hfits := hg.fits
  have hlen : (l ++ [b]).length = l.length + 1 := by simp
  have hcnt : s.cnt.toNat = l.length := by rw [hg.cnt, BitVec.toNat_ofNat]; omega
  have hn : (BitVec.ofNat 16 (h + d)).toNat = h + d := by rw [BitVec.toNat_ofNat]; omega
  have hdeclared : headerLength t ((l ++ [b]).take h) = some d := by
    rw [List.take_append_of_le_length hlong, hg.declared]
  have hdone := complete_iff hg.size hdeclared
  have hok : ¬ Oversized s.maxAclLen t (l ++ [b]) := fun hover => by
    have := hover.length hg.size
    omega
  have hsel := select_accumulatingPayload hg.st hg.explen (by omega) b
  by_cases hmore : s.cnt.toNat + 1 < (BitVec.ofNat 16 (h + d)).toNat
  · rw [if_pos hmore] at hsel
    have hrun : consumeByte b s = opPayAcc b s := consumeByte_of_select hr hsel
    rw [opPayAcc_eq (by omega), hcnt] at hrun
    refine ⟨_, hrun, .gathers ⟨hok, fun hc => ?_⟩ (.payload (h := h) (d := d) ?_) rfl⟩
    · have := hdone.1 hc
      omega
    · refine ⟨hg.st, hg.packet, hg.size, by omega, hdeclared, by omega, hfits, ?_, hg.explen, ?_⟩
      · rw [State.setCnt_cnt, hg.cnt, hlen, BitVec.ofNat_add l.length 1]
        rfl
      · rw [hlen, State.setCnt_buf, State.putByte_buf, readFrom_write_snoc, hg.bytes]
  · rw [if_neg hmore] at hsel
    have hrun : consumeByte b s = opPayEnd b s := consumeByte_of_select hr hsel
    rw [opPayEnd_eq_handOver hr hg.st hg.packet hg.size hg.explen (by omega) (by omega), hcnt, hg.bytes] at hrun
    exact ⟨_, hrun, .completed hok (hdone.2 (by omega)) (by omega) rfl⟩

/-- The byte step inside a packet, by the packet's bytes. -/
theorem State.Gathers.answers (hg : s.Gathers t l) :
    ∃ u, consumeByte b s = .next u ∧ ByteOutcome s t (l ++ [b]) u := by
  cases hg with
  | @header h hg =>
    by_cases hshort : l.length + 1 < h
    · exact hg.answers_hdrAcc hr b hshort
    · exact hg.answers_headerEnd hr b (by have := hg.short; omega)
  | payload hg => exact hg.answers hr b

/-! ## The byte step in the empty state -/

/-- A byte that opens no packet is dropped (R91, R95). -/
theorem consumeByte_of_dropped (he : s.Empty)
    (htype : typeOf s.cfg b = none ∨ typeOf s.cfg b = some .synchronousData) : consumeByte b s = .next s := by
  rw [consumeByte_of_select hr (select_awaitingMarker he.st b)]
  rcases htype with htype | htype
  · rw [selectMarker_of_none htype]; rfl
  · rw [selectMarker_of_some htype]; rfl

/-- A supported marker opens a packet without bytes so far (R92, R93, R94). -/
theorem consumeByte_of_marker (he : s.Empty) {h : Nat} (hsize : headerSize t = some h)
    (htype : typeOf s.cfg b = some t) :
    consumeByte b s = .next (s.openPacket t) ∧ (s.openPacket t).Gathers t [] := by
  obtain ⟨hpos, _⟩ := headerSize_range hsize
  refine ⟨?_, .header (h := h) ⟨rfl, rfl, hsize, hpos, rfl, he.explen, rfl⟩⟩
  rw [consumeByte_of_select hr (select_awaitingMarker he.st b), selectMarker_of_some htype,
    runOp_markOp (ne_synchronousData_of_headerSize hsize)]

/-- Every byte does one or the other. -/
theorem State.Empty.answers (he : s.Empty) :
    consumeByte b s = .next s ∨
      ∃ t, b = marker s.cfg t ∧ consumeByte b s = .next (s.openPacket t) ∧ (s.openPacket t).Gathers t [] := by
  rcases typeOf_cases s.cfg b with hdrop | ⟨q, h, htype, hsize⟩
  · exact .inl (consumeByte_of_dropped hr b he hdrop)
  · obtain ⟨hopen, hg⟩ := consumeByte_of_marker hr b he hsize htype
    exact .inr ⟨q, (marker_of_typeOf htype).symm, hopen, hg⟩

end

end Sys2Proof.Machine
end

section
/-! SUPPORT and settlement of O50, O51, O53, O54, O56, O57, O59, O3. Frames are fed to the decoder byte by byte: while
the bytes since the marker do not end a packet they are gathered, and the byte that ends it decides. -/

namespace Sys2Proof.Machine

/-! ## Bytes that do not end the packet -/

/-- Bytes after which the packet in flight still waits are gathered; only the registers and `BUF` change. -/
theorem feed_of_waiting {x : List Byte} {s : State} {t : PacketType} {l : List Byte} (hr : s.Ready)
    (hg : s.Gathers t l) (hwait : ∀ y, y ≠ [] → y <+: x → Waiting s.maxAclLen t (l ++ y)) :
    ∃ u, feed x s = .next u ∧ u.Gathers t (l ++ x) ∧
      u = { s with st := u.st, cnt := u.cnt, explen := u.explen, buf := u.buf } := by
  induction x generalizing s l with
  | nil => exact ⟨s, rfl, by rwa [List.append_nil], rfl⟩
  | cons b r ih =>
    have hb : Waiting s.maxAclLen t (l ++ [b]) := hwait [b] nofun ⟨r, rfl⟩
    obtain ⟨v, hv, hout⟩ := hg.answers hr b
    cases hout with
    | rejected hover => exact absurd hover hb.accepted
    | completed _ hdone => exact absurd hdone hb.incomplete
    | gathers _ hgv hframe =>
      have hrv : v.Ready := by rw [hframe]; exact ⟨hr.config, hr.sink, hr.idle⟩
      have hbound : v.maxAclLen = s.maxAclLen := by rw [hframe]
      obtain ⟨u, hu, hgu, hframe'⟩ := ih hrv hgv fun y hy hyr => by
        rw [hbound, List.append_assoc]
        exact hwait (b :: y) nofun (List.cons_prefix_cons.2 ⟨rfl, hyr⟩)
      refine ⟨u, by rw [feed_cons, hv, chain_next_left, hu], by rwa [List.append_assoc] at hgu, ?_⟩
      rw [hframe', hframe]

/-- A marker and such bytes, from the empty state. -/
theorem feed_marker_of_waiting {x : List Byte} {s : State} {t : PacketType} {h : Nat} (hr : s.Ready) (he : s.Empty)
    (hsize : headerSize t = some h) (hwait : ∀ y, y ≠ [] → y <+: x → Waiting s.maxAclLen t y) :
    ∃ u, feed (marker s.cfg t :: x) s = .next u ∧ u.Gathers t x ∧ u.Ready ∧
      u = { s with st := u.st, mkTag := u.mkTag, cnt := u.cnt, explen := u.explen, buf := u.buf } := by
  obtain ⟨hopen, hg⟩ := consumeByte_of_marker hr (marker s.cfg t) he hsize (typeOf_marker hr.limits.1 t)
  obtain ⟨u, hu, hgu, hframe⟩ := feed_of_waiting (s := s.openPacket t) ⟨hr.config, hr.sink, hr.idle⟩ hg hwait
  refine ⟨u, by rw [feed_cons, hopen, chain_next_left, hu], hgu, ?_, ?_⟩
  · rw [hframe]
    exact ⟨hr.config, hr.sink, hr.idle⟩
  · rw [hframe]
    rfl

/-! ## Valid packets -/

section
variable {bound : U16} {t : PacketType} {h p : List Byte} (hv : ValidPacket bound t h p)
include hv

theorem ValidPacket.complete : Complete t (h ++ p) :=
  ⟨h.length, p.length, headerSize_of_headerLength hv.declared, by rw [List.take_left, hv.declared], by simp⟩

theorem ValidPacket.not_oversized {y : List Byte} (hy : y <+: h ++ p) : ¬ Oversized bound t y := by
  intro hover
  have hlen := hover.length (headerSize_of_headerLength hv.declared)
  obtain rfl : y = h := (List.prefix_of_prefix_length_le hy (List.prefix_append h p) hlen.le).eq_of_length hlen
  obtain ⟨hacl, d, hd, hlt⟩ := hover
  obtain rfl := Option.some.inj (hv.declared.symm.trans hd)
  have := hv.bounded hacl
  omega

/-- The proper beginnings of a valid packet do not end it. -/
theorem ValidPacket.waiting {y : List Byte} (hy : y <+: h ++ p) (hlt : y.length < (h ++ p).length) :
    Waiting bound t y := by
  refine ⟨hv.not_oversized hy, ?_⟩
  have hsize := headerSize_of_headerLength hv.declared
  by_cases hshort : y.length < h.length
  · exact not_complete_of_short hsize hshort
  · have htake : y.take h.length = h := by
      obtain ⟨z, hz⟩ := hy
      have := congrArg (List.take h.length) hz
      rwa [List.take_append_of_le_length (by omega), List.take_left] at this
    rw [complete_iff hsize (by rw [htake, hv.declared])]
    rw [List.length_append] at hlt
    omega

end

/-- The state after a packet has been dispatched from the empty state: nothing but `BUF`, the dispatch stream and the
sink's plan is new. -/
def State.delivered (s : State) (m : Memory) (p : Packet) : State :=
  { s with buf := m, dispatched := s.dispatched ++ [p], sinkPlan := s.sinkPlan.tail }

/-- R160 for the decoder: a valid frame is dispatched as it was encoded. -/
theorem feed_valid_frame {s : State} {t : PacketType} {h p : List Byte} (hr : s.Ready) (he : s.Empty)
    (hsink : s.SinkReturns) (hv : ValidPacket s.maxAclLen t h p) :
    ∃ m n, n.toNat = h.length + p.length ∧
      feed (frame s.cfg t (h ++ p)) s = .next (s.delivered m { ptype := t, bytes := h ++ p, length := n }) := by
  have hsize := headerSize_of_headerLength hv.declared
  have hne : h ++ p ≠ [] := by
    have := (headerSize_range hsize).1
    rw [← List.length_pos_iff, List.length_append]
    omega
  obtain ⟨x, b, hxb⟩ : ∃ x b, h ++ p = x ++ [b] := ⟨_, _, (List.dropLast_append_getLast hne).symm⟩
  obtain ⟨v, hv', hg, hrv, hframe⟩ := feed_marker_of_waiting (x := x) hr he hsize fun y _ hyx =>
    hv.waiting (hyx.trans (hxb ▸ List.prefix_append x [b])) (by
      have := hyx.length_le
      rw [hxb, List.length_append, List.length_singleton]
      omega)
  have hbound : v.maxAclLen = s.maxAclLen := by rw [hframe]
  obtain ⟨u, hu, hout⟩ := hg.answers hrv b
  rw [← hxb] at hout
  cases hout with
  | rejected hover => exact absurd (hbound ▸ hover) (hv.not_oversized (List.prefix_refl _))
  | gathers hwait => exact absurd hv.complete hwait.incomplete
  | @completed _ _ m n hn hu' =>
    have hsinkv : v.SinkReturns := by rw [hframe]; exact hsink
    rw [hsinkv.handOver] at hu'
    refine ⟨m, n, by rw [hn, List.length_append], ?_⟩
    rw [frame, hxb, ← List.cons_append, feed_append, hv', chain_next_left, feed_cons, hu, chain_next_left, feed_nil,
      hu', hframe, ← hxb]
    obtain ⟨hst, hmk, hcnt, hex⟩ := he
    rw [State.delivered]
    simp [hst, hmk, hcnt, hex]

/-- R163 for the decoder: a header over the bound leaves nothing but its bytes in `BUF`. -/
theorem feed_oversized_header {s : State} {h : List Byte} {d : Nat} (hr : s.Ready) (he : s.Empty)
    (hd : headerLength .aclData h = some d) (hover : s.maxAclLen.toNat < d) :
    ∃ m, feed (frame s.cfg .aclData h) s = .next { s with buf := m } := by
  have hsize := headerSize_of_headerLength hd
  have hne : h ≠ [] := by
    rw [← List.length_pos_iff]
    exact (headerSize_range hsize).1
  obtain ⟨x, b, rfl⟩ : ∃ x b, h = x ++ [b] := ⟨_, _, (List.dropLast_append_getLast hne).symm⟩
  have hshort {y : List Byte} (hyx : y <+: x) : y.length < (x ++ [b]).length := by
    have := hyx.length_le
    rw [List.length_append, List.length_singleton]
    omega
  obtain ⟨v, hv, hg, hrv, hframe⟩ := feed_marker_of_waiting (x := x) hr he hsize fun y _ hyx =>
    ⟨fun hov => absurd (hov.length hsize) (hshort hyx).ne, not_complete_of_short hsize (hshort hyx)⟩
  have hbound : v.maxAclLen = s.maxAclLen := by rw [hframe]
  have hov : Oversized v.maxAclLen .aclData (x ++ [b]) := ⟨rfl, d, hd, by rwa [hbound]⟩
  obtain ⟨u, hu, hout⟩ := hg.answers hrv b
  cases hout with
  | completed hok => exact absurd hov hok
  | gathers hwait => exact absurd hov hwait.accepted
  | rejected _ hu' =>
    refine ⟨u.buf, ?_⟩
    rw [frame, ← List.cons_append, feed_append, hv, chain_next_left, feed_cons, hu, chain_next_left, feed_nil, hu',
      hframe]
    obtain ⟨hst, hmk, hcnt, hex⟩ := he
    simp [State.emptied, hst, hmk, hcnt, hex]

/-- Bytes that open no packet leave the empty state as it is. -/
theorem feed_of_dropped {g : List Byte} {s : State} (hr : s.Ready) (he : s.Empty)
    (hg : ∀ b ∈ g, typeOf s.cfg b = none ∨ typeOf s.cfg b = some .synchronousData) : feed g s = .next s := by
  induction g with
  | nil => rfl
  | cons b r ih =>
    rw [feed_cons, consumeByte_of_dropped hr b he (hg b List.mem_cons_self), chain_next_left]
    exact ih fun c hc => hg c (List.mem_cons_of_mem b hc)

theorem State.SinkAlwaysReturns.delivered {s : State} (h : s.SinkAlwaysReturns) (m : Memory) (p : Packet) :
    (s.delivered m p).SinkAlwaysReturns :=
  fun a ha => h a (List.mem_of_mem_tail ha)

/-! ## The fields of a packed header (R72 to R77) -/

theorem aclWord_fields (handle : BitVec 12) (pb bc : BitVec 2) :
    (aclWord handle pb bc).extractLsb' 0 12 = handle ∧ (aclWord handle pb bc).extractLsb' 12 2 = pb ∧
      (aclWord handle pb bc).extractLsb' 14 2 = bc := by
  have hh := handle.isLt
  have hp := pb.isLt
  have hb := bc.isLt
  refine ⟨?_, ?_, ?_⟩ <;> apply BitVec.eq_of_toNat_eq <;>
    rw [BitVec.extractLsb'_toNat, aclWord_toNat, Nat.shiftRight_eq_div_pow] <;> omega

theorem unpackAcl_packAcl (handle : BitVec 12) (pb bc : BitVec 2) (dlen : U16) :
    unpackAcl (lowByte (aclWord handle pb bc)) (highByte (aclWord handle pb bc)) (lowByte dlen) (highByte dlen) =
      (handle, pb, bc, dlen) := by
  obtain ⟨hhandle, hpb, hbc⟩ := aclWord_fields handle pb bc
  simp only [unpackAcl, le16_lowByte_highByte, hhandle, hpb, hbc]

theorem unpackCmd_packCmd (opcode : U16) (plen : Byte) :
    unpackCmd (lowByte opcode) (highByte opcode) plen = (opcode, plen) := by
  rw [unpackCmd, le16_lowByte_highByte]

/-- The three fields of a handle word make up the word again (R74, R75). -/
theorem aclWord_extract (w : U16) : aclWord (w.extractLsb' 0 12) (w.extractLsb' 12 2) (w.extractLsb' 14 2) = w := by
  have hw := w.isLt
  apply BitVec.eq_of_toNat_eq
  simp only [aclWord_toNat, BitVec.extractLsb'_toNat, Nat.shiftRight_eq_div_pow]
  omega

end Sys2Proof.Machine

namespace Sys2Proof

open Machine

/-- Settles O3: the bytes are those of R72, R74, R76, the words are put together and taken apart by R69 and R74. -/
theorem headerPackingInverse : Obligations.HeaderPackingInverse := by
  refine ⟨fun opcode plen => ⟨_, _, rfl, unpackCmd_packCmd opcode plen⟩, fun b0 b1 b2 => ?_,
    fun handle pb bc dlen => ⟨_, _, _, _, rfl, unpackAcl_packAcl handle pb bc dlen⟩,
    fun b0 b1 b2 b3 => ⟨_, _, _, _, rfl, ?_⟩, fun _ _ => ⟨rfl, rfl⟩⟩
  · rw [unpackCmd, packCmd, lowByte_le16, highByte_le16]
  · rw [packAcl, aclWord_extract, lowByte_le16, highByte_le16, lowByte_le16, highByte_le16]

/-- Settles O50. -/
theorem roundTrip : Obligations.RoundTrip := by
  intro s t h p hr he hsink hv hfits
  obtain ⟨m, n, hn, hfeed⟩ := feed_valid_frame hr he hsink hv
  exact ⟨_, _, n, encodeFrame_of_fits hr.encoderConfigOk hfits, hfeed, hn, rfl⟩

/-- Settles O51: a request whose length field counts its payload packs a valid packet. -/
theorem fieldRoundTrip : Obligations.FieldRoundTrip := by
  intro s hr he hsink
  refine ⟨fun opcode plen params hlen hfits => ?_, fun handle pb bc dlen data hlen hbound hfits => ?_,
    fun code len data hlen hfits => ?_⟩
  · have hv : ValidPacket s.maxAclLen .command (packCmd opcode plen) params := ⟨by rw [hlen]; rfl, nofun⟩
    obtain ⟨m, n, _, hfeed⟩ := feed_valid_frame hr he hsink hv
    have hframe := encodeFrame_of_fits (t := .command) (bytes := packCmd opcode plen ++ params) hr.encoderConfigOk
      fun cap hcap => by have := hfits cap hcap; simp [packCmd]; omega
    exact ⟨_, _, _, _, _, n, hframe, hfeed, rfl, unpackCmd_packCmd opcode plen⟩
  · have hv : ValidPacket s.maxAclLen .aclData (packAcl handle pb bc dlen) data :=
      ⟨by rw [hlen, packAcl, headerLength, unpackAcl_packAcl], fun _ => by rwa [hlen]⟩
    obtain ⟨m, n, _, hfeed⟩ := feed_valid_frame hr he hsink hv
    have hframe := encodeFrame_of_fits (t := .aclData) (bytes := packAcl handle pb bc dlen ++ data) hr.encoderConfigOk
      fun cap hcap => by have := hfits cap hcap; simp [packAcl]; omega
    exact ⟨_, _, _, _, _, _, n, hframe, hfeed, rfl, unpackAcl_packAcl handle pb bc dlen⟩
  · have hv : ValidPacket s.maxAclLen .event (packEvt code len) data := ⟨by rw [hlen]; rfl, nofun⟩
    obtain ⟨m, n, _, hfeed⟩ := feed_valid_frame hr he hsink hv
    have hframe := encodeFrame_of_fits (t := .event) (bytes := packEvt code len ++ data) hr.encoderConfigOk
      fun cap hcap => by have := hfits cap hcap; simp [packEvt]; omega
    exact ⟨_, _, _, _, n, hframe, hfeed, rfl, rfl⟩

/-- Settles O57, by induction on the list of packets. -/
theorem interleavedPacketsFramed : Obligations.InterleavedPacketsFramed := by
  intro s l hr he hsink hv
  induction l generalizing s with
  | nil => exact ⟨s, rfl, by simp⟩
  | cons x r ih =>
    obtain ⟨m, n, hn, hfeed⟩ := feed_valid_frame hr he hsink.sinkReturns (hv x List.mem_cons_self)
    have hlen : n = BitVec.ofNat 16 (x.2.1.length + x.2.2.length) := by
      rw [← hn, BitVec.ofNat_toNat, BitVec.setWidth_eq]
    obtain ⟨u, hu, hframe⟩ := ih (s.delivered m { ptype := x.1, bytes := x.2.1 ++ x.2.2, length := n })
      ⟨hr.config, hr.sink, hr.idle⟩ ⟨he.st, he.packet, he.cnt, he.explen⟩ (hsink.delivered _ _)
      fun y hy => hv y (List.mem_cons_of_mem x hy)
    refine ⟨u, ?_, ?_⟩
    · rw [List.flatMap_cons, feed_append, hfeed, chain_next_left]
      exact hu
    · rw [hframe, hlen]
      simp [State.delivered]

/-- Settles O53. -/
theorem garbageHasNoEffect : Obligations.GarbageHasNoEffect := by
  intro s g w hr he hg
  rw [feed_append, feed_of_dropped hr he hg, chain_next_left]

/-- Settles O54. -/
theorem oversizedHeaderRejected : Obligations.OversizedHeaderRejected := by
  intro s a b lo hi hr he hover
  have hd : headerLength .aclData [a, b, lo, hi] = some (lo.toNat + 256 * hi.toNat) := by
    rw [← le16_toNat]
    rfl
  obtain ⟨m, hm⟩ := feed_oversized_header hr he hd hover
  have hfeed : feed [s.cfg.markerAcl, a, b, lo, hi] s = .next { s with buf := m } := hm
  exact ⟨_, hfeed, rfl, fun w => by rw [feed_append, hfeed, chain_next_left]⟩

/-- Settles O56: (a) and (b) are valid packets, (c) is a header over the bound. -/
theorem boundaryLengths : Obligations.BoundaryLengths := by
  intro s hr he hsink
  refine ⟨fun t h hd => ?_, fun t h p largest hmem hd hlen => ?_, fun h hd => ?_⟩
  · obtain ⟨m, n, hn, hfeed⟩ := feed_valid_frame (p := []) hr he hsink ⟨hd, fun _ => Nat.zero_le _⟩
    rw [List.append_nil] at hfeed
    exact ⟨_, n, hfeed, ⟨he.st, he.packet, he.cnt, he.explen⟩, by rw [hn]; exact headerSize_of_headerLength hd, rfl⟩
  · have hbound : t = .aclData → p.length ≤ s.maxAclLen.toNat := by
      rintro rfl
      simp at hmem
      omega
    obtain ⟨m, n, hn, hfeed⟩ := feed_valid_frame hr he hsink ⟨hd, hbound⟩
    exact ⟨_, n, _, hfeed, ⟨he.st, he.packet, he.cnt, he.explen⟩, headerSize_of_headerLength hd, by rw [hn, hlen], rfl⟩
  · obtain ⟨m, hm⟩ := feed_oversized_header hr he hd (Nat.lt_succ_self _)
    exact ⟨_, hm, ⟨he.st, he.packet, he.cnt, he.explen⟩, rfl⟩

/-- Settles O59: a proper beginning is gathered, and the registers count its bytes. -/
theorem partialPacketResumable : Obligations.PartialPacketResumable := by
  intro s t h p k hr he hv hpos hk
  obtain ⟨j, rfl⟩ : ∃ j, k = j + 1 := ⟨k - 1, by omega⟩
  have hj : j < (h ++ p).length := by simpa [frame] using hk
  have hsize := headerSize_of_headerLength hv.declared
  have hlen : ((h ++ p).take j).length = j := by rw [List.length_take]; omega
  obtain ⟨u, hu, hg, hru, hframe⟩ := feed_marker_of_waiting (x := (h ++ p).take j) hr he hsize fun y _ hyx =>
    hv.waiting (hyx.trans (List.take_prefix j _)) (by have := hyx.length_le; omega)
  have hle := (headerSize_range hsize).2
  obtain ⟨_, _, hmax, _⟩ := hru.limits
  refine ⟨u, hu, by rw [hframe], ?_⟩
  cases hg with
  | @header q hg =>
    obtain rfl : h.length = q := Option.some.inj (hsize.symm.trans hg.size)
    have hshort := hg.short
    refine ⟨hg.packet, ?_⟩
    rw [if_pos (by omega)]
    refine ⟨hg.st, ?_, hg.explen⟩
    rw [hg.cnt, hlen, BitVec.toNat_ofNat]
    omega
  | @payload q d hg =>
    obtain rfl : h.length = q := Option.some.inj (hsize.symm.trans hg.size)
    have hlong := hg.long
    have hshort := hg.short
    have hfits := hg.fits
    have hd := hg.declared
    rw [List.take_take, Nat.min_eq_left (by omega), List.take_left, hv.declared] at hd
    obtain rfl : p.length = d := Option.some.inj hd
    refine ⟨hg.packet, ?_⟩
    rw [if_neg (by omega)]
    refine ⟨hg.st, ?_, _, hg.explen, ?_⟩
    · rw [hg.cnt, hlen, BitVec.toNat_ofNat]
      omega
    · rw [BitVec.toNat_ofNat]
      omega

end Sys2Proof
end

section
/-! SUPPORT and settlement of O55, O58, O60. Over any input the decoder is empty, or has a packet in flight, or is
inside an emit; what a byte does depends on the bytes in flight alone. -/

namespace Sys2Proof.Machine

/-! ## Two contents of `BUF` (D11, D17) -/

/-- The states differ in `BUF` alone, and not in the part of it that will be read. -/
structure AlikeButStale (u v : State) : Prop where
  frame : v = { u with buf := v.buf }
  flight : u.Empty ∨ (∃ t l, u.Gathers t l ∧ v.Gathers t l) ∨ u.busy = true

theorem alikeButStale_handOver {u v : State} (h : v = { u with buf := v.buf }) (m m' : Memory) (n : U16) (p : Packet) :
    AlikeButStale (u.handOver m n p) (v.handOver m' n p) := by
  rw [h]
  unfold State.handOver
  rw [show State.sinkBlocks { u with buf := v.buf } = u.sinkBlocks from rfl]
  cases u.sinkBlocks with
  | true => exact ⟨rfl, .inr (.inr rfl)⟩
  | false => exact ⟨rfl, .inl ⟨rfl, rfl, rfl, rfl⟩⟩

theorem AlikeButStale.ready {u v : State} (h : AlikeButStale u v) (hr : u.Ready) : v.Ready := by
  rw [h.frame]
  exact ⟨hr.config, hr.sink, hr.idle⟩

/-- The bytes in flight decide the outcome, so it is the same in both states. -/
theorem alikeButStale_of_outcome {u v u' v' : State} {t : PacketType} {l : List Byte}
    (hframe : v = { u with buf := v.buf }) (hu : ByteOutcome u t l u') (hv : ByteOutcome v t l v') :
    AlikeButStale u' v' := by
  have hbound : v.maxAclLen = u.maxAclLen := by rw [hframe]
  cases hu with
  | rejected hover hu' =>
    cases hv with
    | completed hok => exact absurd (hbound ▸ hover) hok
    | gathers hwait => exact absurd (hbound ▸ hover) hwait.accepted
    | rejected _ hv' =>
      refine ⟨?_, .inl (by rw [hu']; exact ⟨rfl, rfl, rfl, rfl⟩)⟩
      rw [hv', hu', hframe]
      rfl
  | completed hok hdone hn hu' =>
    cases hv with
    | rejected hover => exact absurd (hbound ▸ hover) hok
    | gathers hwait => exact absurd hdone hwait.incomplete
    | completed _ _ hn' hv' =>
      obtain rfl := BitVec.eq_of_toNat_eq (hn.trans hn'.symm)
      rw [hu', hv']
      exact alikeButStale_handOver hframe _ _ _ _
  | gathers hwait hg hu' =>
    cases hv with
    | rejected hover => exact absurd (hbound ▸ hover) hwait.accepted
    | completed _ hdone => exact absurd hdone hwait.incomplete
    | gathers _ hg' hv' =>
      obtain ⟨hst, _, hcnt, hex⟩ := hg.registers_eq hg'
      refine ⟨?_, .inr (.inl ⟨t, l, hg, hg'⟩)⟩
      rw [hv', hst, hcnt, hex, hframe, hu']

/-- From the empty state a byte is dropped or opens a packet, whatever `BUF` holds. -/
theorem alikeButStale_of_empty {u v u' : State} (hframe : v = { u with buf := v.buf }) (hr : u.Ready) (hrv : v.Ready)
    (he : u.Empty) {b : Byte} (hu : consumeByte b u = .next u') :
    ∃ v', consumeByte b v = .next v' ∧ AlikeButStale u' v' := by
  have hev : v.Empty := by rw [hframe]; exact ⟨he.st, he.packet, he.cnt, he.explen⟩
  have hcfg : v.cfg = u.cfg := by rw [hframe]
  rcases typeOf_cases u.cfg b with hdrop | ⟨q, h, htype, hsize⟩
  · cases hu.symm.trans (consumeByte_of_dropped hr b he hdrop)
    exact ⟨v, consumeByte_of_dropped hrv b hev (by rwa [hcfg]), hframe, .inl he⟩
  · obtain ⟨hopen, hg⟩ := consumeByte_of_marker hr b he hsize htype
    obtain ⟨hopenv, hgv⟩ := consumeByte_of_marker hrv b hev hsize (by rwa [hcfg])
    cases hu.symm.trans hopen
    refine ⟨_, hopenv, ?_, .inr (.inl ⟨q, [], hg, hgv⟩)⟩
    rw [hframe]
    rfl

/-- The same byte does the same to both. -/
theorem AlikeButStale.answers {u v u' : State} (h : AlikeButStale u v) {b : Byte} (hu : consumeByte b u = .next u') :
    ∃ v', consumeByte b v = .next v' ∧ AlikeButStale u' v' := by
  obtain ⟨hr, _⟩ := consumeByte_next.1 hu
  have hrv := h.ready hr
  obtain he | ⟨t, l, hgu, hgv⟩ | hb := h.flight
  · exact alikeButStale_of_empty h.frame hr hrv he hu
  · obtain ⟨w, hw, hout⟩ := hgu.answers hr b
    cases hw.symm.trans hu
    obtain ⟨v', hv, hout'⟩ := hgv.answers hrv b
    exact ⟨v', hv, alikeButStale_of_outcome h.frame hout hout'⟩
  · rw [hr.idle] at hb
    cases hb

theorem AlikeButStale.feed_answers {x : List Byte} {u v u' : State} (h : AlikeButStale u v)
    (hu : feed x u = .next u') : ∃ v', feed x v = .next v' ∧ v' = { u' with buf := v'.buf } := by
  induction x generalizing u v with
  | nil =>
    cases hu
    exact ⟨v, rfl, h.frame⟩
  | cons b r ih =>
    obtain ⟨w, hw, hrest⟩ := chain_next.1 hu
    obtain ⟨w', hw', halike⟩ := h.answers hw
    obtain ⟨v', hv', hframe⟩ := ih halike hrest
    exact ⟨v', by rw [feed_cons, hw', chain_next_left, hv'], hframe⟩

/-! ## Where dispatched packets stand in the input (R166) -/

theorem segments_prepend {c : Config} {x : List Byte} {out : List Packet} (g : List Byte) (h : Segments c x out) :
    Segments c (g ++ x) out := by
  cases out with
  | nil => trivial
  | cons p out =>
    obtain ⟨g', r, rfl, hr⟩ := h
    exact ⟨g ++ g', r, by simp, hr⟩

/-- What has been read of the packet in flight: nothing, or its marker and the bytes since. -/
inductive Reading (s : State) : List Byte → Prop
  | nothing (he : s.Empty) : Reading s []
  | packet {t : PacketType} {l : List Byte} (hg : s.Gathers t l) : Reading s (marker s.cfg t :: l)
  | stuck (hb : s.busy = true) : Reading s []

theorem reading_handOver (s : State) (m : Memory) (n : U16) (p : Packet) : Reading (s.handOver m n p) [] := by
  unfold State.handOver
  cases s.sinkBlocks with
  | true => exact .stuck rfl
  | false => exact .nothing ⟨rfl, rfl, rfl, rfl⟩

theorem handOver_dispatched (s : State) (m : Memory) (n : U16) (p : Packet) :
    (s.handOver m n p).dispatched = s.dispatched ++ [p] := by
  unfold State.handOver
  split <;> rfl

/-- One byte: some packets `ps` are dispatched, and pieces of what remains to be read make with them pieces of all. -/
theorem Reading.step {s u : State} {y : List Byte} {b : Byte} (hy : Reading s y) (hu : consumeByte b s = .next u) :
    ∃ y' ps, Reading u y' ∧ u.dispatched = s.dispatched ++ ps ∧
      ∀ r out, Segments s.cfg (y' ++ r) out → Segments s.cfg (y ++ b :: r) (ps ++ out) := by
  obtain ⟨hr, _⟩ := consumeByte_next.1 hu
  cases hy with
  | nothing he =>
    rcases he.answers hr b with hdrop | ⟨q, rfl, hopen, hg⟩
    · cases hu.symm.trans hdrop
      exact ⟨[], [], .nothing he, by simp, fun _ _ h => segments_prepend [b] h⟩
    · cases hu.symm.trans hopen
      exact ⟨_, [], .packet hg, by simp, fun _ _ h => h⟩
  | stuck hb =>
    rw [hr.idle] at hb
    cases hb
  | @packet q l hg =>
    obtain ⟨_, hu', hout⟩ := hg.answers hr b
    cases hu.symm.trans hu'
    cases hout with
    | rejected _ hframe =>
      refine ⟨[], [], ?_, by rw [hframe, List.append_nil]; rfl, fun r out h => ?_⟩
      · rw [hframe]
        exact .nothing ⟨rfl, rfl, rfl, rfl⟩
      · simpa using segments_prepend (marker s.cfg q :: l ++ [b]) h
    | gathers _ hg' hframe =>
      have hcfg : u.cfg = s.cfg := by rw [hframe]
      refine ⟨_, [], .packet hg', by rw [hframe, List.append_nil], fun r out h => ?_⟩
      simpa [hcfg] using h
    | @completed _ _ m n _ hframe =>
      refine ⟨[], _, hframe ▸ reading_handOver s m n _, by rw [hframe, handOver_dispatched], fun r out h => ?_⟩
      exact ⟨[], r, by simp, h⟩

/-- The packets that feeding `x` dispatches are pieces of what has been read and of `x`, joined. -/
theorem Reading.segments {x y : List Byte} {s t : State} (hy : Reading s y) (h : feed x s = .next t) :
    ∃ out, t.dispatched = s.dispatched ++ out ∧ Segments s.cfg (y ++ x) out := by
  induction x generalizing s y with
  | nil =>
    cases h
    exact ⟨[], by simp, trivial⟩
  | cons b r ih =>
    obtain ⟨u, hu, hrest⟩ := chain_next.1 h
    have hcfg : u.cfg = s.cfg := by rw [(consumeByte_frame hu).1.1]
    obtain ⟨y', ps, hy', hps, hseg⟩ := hy.step hu
    obtain ⟨out, hout, hseg'⟩ := ih hy' hrest
    rw [hcfg] at hseg'
    exact ⟨ps ++ out, by rw [hout, hps, List.append_assoc], hseg r out hseg'⟩

/-! ## How soon the decoder is back in `AwaitingMarker` (R168) -/

/-- The total length the bytes of a packet in flight declare, if they declare one, is at most `n`. -/
def TotalWithin (n : Nat) (t : PacketType) (l : List Byte) : Prop :=
  ∀ h d, headerSize t = some h → headerLength t (l.take h) = some d → h + d ≤ n

/-- An accepted header declares at most 255 bytes or at most the bound (R103). -/
theorem TotalWithin.snoc {n : Nat} {bound : U16} {t : PacketType} {l : List Byte} {b : Byte} (hn : 258 ≤ n)
    (hbound : 4 + bound.toNat ≤ n) (hl : TotalWithin n t l) (hok : ¬ Oversized bound t (l ++ [b])) :
    TotalWithin n t (l ++ [b]) := by
  intro h d hsize hd
  by_cases hlong : h ≤ l.length
  · rw [List.take_append_of_le_length hlong] at hd
    exact hl h d hsize hd
  · rw [List.take_of_length_le (by simp; omega)] at hd
    by_cases hacl : t = .aclData
    · have hle : d ≤ bound.toNat := Nat.le_of_not_lt fun hlt => hok ⟨hacl, d, hd, hlt⟩
      have := headerSize_le hsize
      omega
    · have hle := headerLength_le hd hacl
      have hh : h ≤ 3 := by
        cases t <;> cases hsize
        · decide
        · exact absurd rfl hacl
        · decide
      omega

/-- A packet in flight within `n` bytes is left after at most `n` bytes, counting those it already has. -/
theorem State.Gathers.returns {n : Nat} {x : List Byte} {s : State} {t : PacketType} {l : List Byte} (hn : 258 ≤ n)
    (hbound : 4 + s.maxAclLen.toNat ≤ n) (hr : s.Ready) (hsink : s.SinkAlwaysReturns) (hg : s.Gathers t l)
    (hl : TotalWithin n t l) (hx : n ≤ l.length + x.length) :
    ∃ k u, 1 ≤ k ∧ l.length + k ≤ n ∧ feed (x.take k) s = .next u ∧ u.st = .awaitingMarker := by
  have hlt : l.length < n := by
    cases hg with
    | header hg => have := hg.short; have := headerSize_le hg.size; omega
    | payload hg => have := hl _ _ hg.size hg.declared; have := hg.short; omega
  induction x generalizing s l with
  | nil => simp at hx; omega
  | cons b r ih =>
    obtain ⟨u, hu, hout⟩ := hg.answers hr b
    have hone (hst : u.st = .awaitingMarker) :
        ∃ k u, 1 ≤ k ∧ l.length + k ≤ n ∧ feed ((b :: r).take k) s = .next u ∧ u.st = .awaitingMarker :=
      ⟨1, u, Nat.le_refl 1, hlt, by simp [hu], hst⟩
    cases hout with
    | rejected _ hframe => exact hone (by rw [hframe]; rfl)
    | completed _ _ _ hframe => exact hone (by rw [hframe, hsink.sinkReturns.handOver])
    | gathers hwait hg' hframe =>
      obtain ⟨hr', hsink'⟩ := consumeByte_returns hr hsink hu
      have hbound' : 4 + u.maxAclLen.toNat ≤ n := by rw [hframe]; exact hbound
      have hl' := hl.snoc hn hbound hwait.accepted
      have hlen : (l ++ [b]).length = l.length + 1 := by simp
      have hlt' : (l ++ [b]).length < n := by
        cases hg' with
        | header hg => have := hg.short; have := headerSize_le hg.size; omega
        | payload hg => have := hl' _ _ hg.size hg.declared; have := hg.short; omega
      obtain ⟨k, v, hk, hkn, hv, hst⟩ := ih hbound' hr' hsink' hg' hl' (by simp at hx ⊢; omega) hlt'
      exact ⟨k + 1, v, by omega, by omega, by rw [List.take_succ_cons, feed_cons, hu, chain_next_left, hv], hst⟩

/-- A header state of R26 holds the bytes stored so far. -/
theorem State.InHeader.gathers {s : State} {t : PacketType} {h : Nat} (hst : s.st = .accumulatingHeader)
    (hh : s.InHeader t h) : s.Gathers t (s.buf.readFrom 0 (s.cnt.toNat - 1)) := by
  have hlow := hh.low
  have hhigh := hh.high
  refine .header (h := h) ⟨hst, hh.packet, hh.size, ?_, ?_, hh.explen, ?_⟩
  · rw [length_readFrom]; omega
  · rw [length_readFrom, Nat.sub_add_cancel hlow, BitVec.ofNat_toNat, BitVec.setWidth_eq]
  · rw [length_readFrom]

/-- A payload state of R26 holds the bytes stored so far, and `explen` is their declared total. -/
theorem State.InPayload.gathers {s : State} {t : PacketType} {h : Nat} {n len : U16}
    (hst : s.st = .accumulatingPayload) (hb : s.busy = false) (hp : s.InPayload t h n len) :
    s.Gathers t (s.buf.readFrom 0 s.cnt.toNat) ∧ TotalWithin n.toNat t (s.buf.readFrom 0 s.cnt.toNat) := by
  have hlt := hp.cnt_lt hb
  have htotal := hp.total
  have hfits := hp.fits
  have hd := headerLength_take hp.size hp.field hp.low
  constructor
  · refine .payload (h := h) (d := len.toNat) ⟨hst, hp.packet, hp.size, ?_, hd, ?_, ?_, ?_, ?_, ?_⟩
    · rw [length_readFrom]; exact hp.low
    · rw [length_readFrom]; omega
    · omega
    · rw [length_readFrom, BitVec.ofNat_toNat, BitVec.setWidth_eq]
    · rw [← htotal, BitVec.ofNat_toNat, BitVec.setWidth_eq]; exact hp.explen
    · rw [length_readFrom]
  · intro k d hk hd'
    obtain rfl := Option.some.inj (hp.size.symm.trans hk)
    obtain rfl := Option.some.inj (hd.symm.trans hd')
    exact htotal.ge

/-- Without a complete header nothing is declared. -/
theorem totalWithin_of_short {n : Nat} {t : PacketType} {l : List Byte} {h : Nat} (hsize : headerSize t = some h)
    (hshort : l.length < h) : TotalWithin n t l := by
  intro k d hk hd
  have hlen := Option.some.inj ((headerSize_of_headerLength hd).symm.trans hk)
  obtain rfl := Option.some.inj (hsize.symm.trans hk)
  rw [List.length_take] at hlen
  omega

theorem totalWithin_nil (n : Nat) (t : PacketType) : TotalWithin n t [] := by
  intro k d hk hd
  have hpos := (headerSize_range hk).1
  have hlen := Option.some.inj ((headerSize_of_headerLength hd).symm.trans hk)
  rw [List.take_nil, List.length_nil] at hlen
  omega

end Sys2Proof.Machine

namespace Sys2Proof

open Machine

/-- Settles O55: the empty state reads nothing of `BUF`, and a packet in flight only the bytes it has stored. -/
theorem staleBufferUnobservable : Obligations.StaleBufferUnobservable := by
  intro s t m w he h
  have halike : AlikeButStale s { s with buf := m } := ⟨rfl, .inl he⟩
  exact halike.feed_answers h

/-- Settles O58. -/
theorem packetsAreInInput : Obligations.PacketsAreInInput := by
  intro s t x he h
  exact (Reading.nothing he).segments h

/-- Settles O60: a packet in flight ends within its total length, and a marker opens one with nothing declared yet. -/
theorem returnsToAwaitingMarker : Obligations.ReturnsToAwaitingMarker := by
  intro s x hi hr hsink hexplen hx
  generalize hn : max 258 (4 + s.maxAclLen.toNat) = n at hexplen hx ⊢
  have h258 : 258 ≤ n := by omega
  have hbound : 4 + s.maxAclLen.toNat ≤ n := by omega
  have hflight {t : PacketType} {l : List Byte} (hg : s.Gathers t l) (hl : TotalWithin n t l) :
      ∃ k u, 1 ≤ k ∧ k ≤ 1 + n ∧ feed (x.take k) s = .next u ∧ u.st = .awaitingMarker := by
    obtain ⟨k, u, hk, hkn, hu, hst⟩ := hg.returns (x := x) h258 hbound hr hsink hl (by omega)
    exact ⟨k, u, hk, by omega, hu, hst⟩
  cases hst : s.st with
  | awaitingMarker =>
    have hrow := hi.row
    rw [State.Row, hst] at hrow
    cases x with
    | nil => simp at hx
    | cons b r =>
      rcases hrow.1.answers hr b with hdrop | ⟨q, _, hopen, hg⟩
      · exact ⟨1, s, Nat.le_refl 1, by omega, by simp [hdrop], hst⟩
      · obtain ⟨k, u, hk, hkn, hu, hst'⟩ := hg.returns (s := s.openPacket q) (x := r) h258 hbound
          ⟨hr.config, hr.sink, hr.idle⟩ hsink (totalWithin_nil n q) (by simp at hx ⊢; omega)
        exact ⟨k + 1, u, by omega, by simp at hkn; omega,
          by rw [List.take_succ_cons, feed_cons, hopen, chain_next_left, hu], hst'⟩
  | accumulatingHeader =>
    obtain ⟨t, h, hh⟩ := hi.inHeader hst
    have hlow := hh.low
    have hhigh := hh.high
    exact hflight (hh.gathers hst) (totalWithin_of_short hh.size (by rw [length_readFrom]; omega))
  | accumulatingPayload =>
    obtain ⟨t, h, m, len, hp⟩ := hi.inPayload hst
    obtain ⟨hg, hl⟩ := hp.gathers hst hr.idle
    exact hflight hg fun k d hk hd => (hl k d hk hd).trans (hexplen m hp.explen)

end Sys2Proof
end

section
/-! SUPPORT and settlement of O1, O2, O7, O14, O16, O30, O4, O5, O6, O8, O9, O11, O13, O19, O20. The rows of the marker
table both ways, what is refused, and the operations whose effect is one update of the registers. -/

namespace Sys2Proof.Machine

/-! ## The marker table (R61, R80) -/

/-- The row of the table that a byte of type `q`, or of none, selects. -/
def rowOf (b : Byte) : Option PacketType → Instr
  | some .command => .hciCmd
  | some .aclData => .hciAcl
  | some .event => .hciEvt
  | some .synchronousData => .hciSync
  | none => .notAMarker b

theorem decode_cons {c : Config} (hc : markersDistinct c = true) (b : Byte) (rest : List Byte) :
    decode c (b :: rest) = .ok (rowOf b (typeOf c b), rest) := by
  rw [decode, if_pos hc]
  cases typeOf c b with
  | none => rfl
  | some q => cases q <;> rfl

/-- A well-formed row with an encoding is the row its byte selects. -/
theorem encode_eq_some {c : Config} (hc : markersDistinct c = true) {i : Instr} {bytes : List Byte}
    (hwf : i.wellFormed c = true) (h : encode c i = some bytes) : ∃ b, bytes = [b] ∧ i = rowOf b (typeOf c b) := by
  cases i with
  | hciCmd => cases h; exact ⟨_, rfl, by rw [typeOf_marker hc]; rfl⟩
  | hciAcl => cases h; exact ⟨_, rfl, by rw [typeOf_marker hc]; rfl⟩
  | hciSync => cases h; exact ⟨_, rfl, by rw [typeOf_marker hc]; rfl⟩
  | hciEvt => cases h; exact ⟨_, rfl, by rw [typeOf_marker hc]; rfl⟩
  | notAMarker b => cases h; exact ⟨b, rfl, by rw [Option.isNone_iff_eq_none.1 hwf]; rfl⟩
  | _ => cases h

theorem rowOf_spec (c : Config) (b : Byte) :
    (rowOf b (typeOf c b)).wellFormed c = true ∧ encode c (rowOf b (typeOf c b)) = some [b] := by
  cases htype : typeOf c b with
  | none => exact ⟨by rw [rowOf, Instr.wellFormed, htype]; rfl, rfl⟩
  | some q =>
    have hb := marker_of_typeOf htype
    cases q <;> exact ⟨rfl, congrArg (fun x => some [x]) hb⟩

/-- In a ready state a marker row consumes its byte (R79). -/
theorem exec_row_of_encode {s : State} (hr : s.Ready) {i : Instr} {b : Byte} (hwf : i.wellFormed s.cfg = true)
    (h : encode s.cfg i = some [b]) : exec i s = exec (.stepByte b) s := by
  have hc := hr.limits.1
  obtain ⟨_, hb, hi⟩ := encode_eq_some hc hwf h
  cases hb
  exact exec_row rfl (by rw [decode_cons hc, ← hi])

/-! ## Refusals -/

theorem notReady_of_busy {s : State} (hb : s.busy = true) : ∃ e, s.notReady = some e :=
  Option.ne_none_iff_exists'.1 fun h => by simp [(ready_iff.1 h).idle] at hb

theorem whenIdle_refused {s : State} {e : Refusal} (h : s.notIdle = some e) (r : Result) :
    whenIdle s r = .refused e := by
  unfold whenIdle
  rw [h]

theorem whenIdle_of_busy {s : State} (hb : s.busy = true) (r : Result) : ∃ e, whenIdle s r = .refused e := by
  by_cases hc : s.configOk = true
  · have hn : s.notIdle = some .reentrant := by simp [State.notIdle, hc, hb]
    exact ⟨.reentrant, whenIdle_refused hn r⟩
  · exact ⟨.invalidConfig, whenIdle_illegal (by simpa using hc) r⟩

theorem execConfig_of_busy {s : State} (hb : s.busy = true) (v : Nat) : ∃ e, execConfig v s = .refused e := by
  by_cases hc : staticConfigOk s.cfg = true
  · exact ⟨.reentrant, by simp [execConfig, hc, hb]⟩
  · exact ⟨.invalidConfig, by simp [execConfig, hc]⟩

/-- U3: while a `Dispatch` is outstanding the decoder is not used. -/
theorem exec_refused_of_busy {i : Instr} {s : State} (hb : s.busy = true) (hi : isEncoder i = false) :
    ∃ r, exec i s = .refused r := by
  obtain ⟨e, he⟩ := notReady_of_busy hb
  have hrefused (r : Result) : whenReady s r = .refused e := whenReady_refused he r
  cases i with
  | srcGet => exact whenIdle_of_busy hb _
  | reset => exact whenIdle_of_busy hb _
  | config v => exact execConfig_of_busy hb v
  | notAMarker b =>
    by_cases htype : (typeOf s.cfg b).isNone = true
    · exact ⟨e, (if_pos htype).trans (hrefused _)⟩
    · exact ⟨_, if_neg htype⟩
  | encFrame | encCmd | encAcl | encEvt | txFrame => cases hi
  | _ => exact ⟨e, hrefused _⟩

/-- U8, U9: without a sink or with an illegal configuration the decoder does nothing. -/
theorem exec_refused_of_notReady {s : State} {e : Refusal} (he : s.notReady = some e) (b : Byte) (op : StepOp)
    (cause : ResyncCause) : ∀ i ∈ [byteInstr op b, .stepByte b, .hciCmd, .hciAcl, .hciSync, .hciEvt, .complete,
      .dispatch, .resync cause, .drain], exec i s = .refused e := by
  have hrefused (r : Result) : whenReady s r = .refused e := whenReady_refused he r
  have hbyte : exec (byteInstr op b) s = .refused e := by rw [exec_byteInstr]; exact hrefused _
  simp only [List.forall_mem_cons, List.not_mem_nil, false_imp_iff, implies_true, and_true]
  exact ⟨hbyte, hrefused _, hrefused _, hrefused _, hrefused _, hrefused _, hrefused _, hrefused _, hrefused _,
    hrefused _⟩

theorem encodeFrame_illegal {s : State} (hc : encoderConfigOk s.cfg = false) (t : PacketType) (bytes : List Byte) :
    encodeFrame t bytes s = .refused .invalidConfig :=
  if_pos (by rw [hc]; rfl)

theorem encoder_refused_of_illegal {i : Instr} {s : State} (hc : encoderConfigOk s.cfg = false)
    (hi : isEncoder i = true) : exec i s = .refused .invalidConfig := by
  cases i with
  | encFrame t bytes => exact encodeFrame_illegal hc _ _
  | encCmd opcode plen params => exact encodeFrame_illegal hc _ _
  | encAcl handle pb bc dlen data => exact encodeFrame_illegal hc _ _
  | encEvt code len data => exact encodeFrame_illegal hc _ _
  | txFrame bytes => exact if_pos (by rw [hc]; rfl)
  | _ => cases hi

theorem whenCompleting_refused {s : State} (hr : s.Ready) (h : ¬ (s.st = .accumulatingPayload ∧ s.explen = some s.cnt))
    (r : Result) : whenCompleting s r = .refused .notSelected := by
  have hc : ¬ completing s = true := by simpa [completing] using h
  rw [whenCompleting, whenReady_of_ready hr, if_neg hc]

/-! ## The states a byte step can lead to (R108) -/

theorem st_of_runOp_markOp {q : PacketType} {b : Byte} {s t : State} (hst : s.st = .awaitingMarker)
    (h : runOp (markOp q) b s = .next t) : t.st ≠ .accumulatingPayload := by
  cases q <;> cases h
  · exact nofun
  · exact nofun
  · exact nofun
  · rw [hst]; nofun

theorem st_of_payload_byte {b : Byte} {s t : State} (hst : s.st = .accumulatingPayload)
    (h : opPayAcc b s = .next t ∨ opPayEnd b s = .next t) : t.st ≠ .accumulatingHeader := by
  rcases h with h | h
  · obtain ⟨u, hu, ht⟩ := chain_next.1 h
    obtain ⟨_, rfl⟩ := storeByte_next.1 hu
    cases ht
    rw [State.setCnt_st, State.putByte_st, hst]
    nofun
  · obtain ⟨u, hu, ht⟩ := chain_next.1 h
    obtain ⟨_, rfl⟩ := storeByte_next.1 hu
    obtain ⟨_, _, _, hawait | hsame⟩ := completeOp_frame ht
    · rw [hawait]; nofun
    · rw [hsame, State.setCnt_st, State.putByte_st, hst]
      nofun

/-- Only PAY.ACC and PAY.END are selected in `AccumulatingPayload`. -/
theorem select_payload_cases {s : State} {b : Byte} {op : StepOp} (hst : s.st = .accumulatingPayload)
    (hsel : select s b = some op) : op = .payAcc ∨ op = .payEnd := by
  rw [select, hst] at hsel
  simp only [selectPayload] at hsel
  split at hsel
  · cases hsel
  · split at hsel
    · cases hsel; exact .inl rfl
    · split at hsel
      · cases hsel; exact .inr rfl
      · cases hsel

end Sys2Proof.Machine

namespace Sys2Proof

open Machine

/-- Settles O1. -/
theorem decodeAndEncodeAgree : Obligations.DecodeAndEncodeAgree := by
  intro c hc
  refine ⟨fun i bytes rest hwf h => ?_, fun b rest => ⟨_, decode_cons hc b rest, rowOf_spec c b⟩⟩
  obtain ⟨b, rfl, hi⟩ := encode_eq_some hc hwf h
  rw [List.singleton_append, decode_cons hc, ← hi]

/-- Settles O2: six closed decodings. -/
theorem writtenOutBytesDecode : Obligations.WrittenOutBytesDecode := ⟨rfl, rfl, rfl, rfl, rfl, rfl⟩

/-- Settles O7. -/
theorem breachesOfDutyRefused : Obligations.BreachesOfDutyRefused := by
  refine ⟨fun i s hb hi => exec_refused_of_busy hb hi,
    fun s e b op cause he => ⟨exec_refused_of_notReady he b op cause, fun htype => ?_⟩, fun s hc => ?_,
    fun s v hc => if_pos (by rw [hc]; rfl), fun i s hc hi => encoder_refused_of_illegal hc hi⟩
  · have hrow : exec (.notAMarker b) s = consumeByte b s := if_pos (by rw [htype]; rfl)
    exact hrow.trans (whenReady_refused he _)
  · exact ⟨whenIdle_illegal hc _, whenIdle_illegal hc _, fun ha hb hq => step_illegal ha hb hq hc⟩

/-- Settles O14: the row consumes its byte, and the place of the byte selects the operation. -/
theorem markerValuesInsidePacketsAreData : Obligations.MarkerValuesInsidePacketsAreData := by
  intro s i b hr hwf hi
  have hrow := exec_row_of_encode hr hwf hi
  refine ⟨hrow, fun hst t h hmk hsize hlow => ?_, fun hst n hn => ?_⟩
  · have hend {op : StepOp} (hcnt : s.cnt.toNat = h) (hop : headerEndOp t = some op) :
        exec i s = exec (byteInstr op b) s :=
      hrow.trans (exec_stepByte_of_select hr ((select_headerEnd hst hmk hsize hcnt b).trans hop))
    refine ⟨fun hlt => ?_, ?_, ?_, ?_⟩
    · have hsel := select_accumulatingHeader hst hmk hsize hlow hlt.le b
      rw [if_pos hlt] at hsel
      exact hrow.trans (exec_stepByte_of_select hr hsel)
    · rintro hcnt rfl
      exact hend hcnt rfl
    · rintro hcnt rfl
      exact hend hcnt rfl
    · rintro hcnt rfl
      exact hend hcnt rfl
  · refine ⟨fun hlt => ?_, fun hlast => ?_⟩
    · have hsel := select_accumulatingPayload hst hn (by omega) b
      rw [if_pos hlt] at hsel
      exact hrow.trans (exec_stepByte_of_select hr hsel)
    · have hsel := select_accumulatingPayload hst hn (by omega) b
      rw [if_neg (by omega)] at hsel
      exact hrow.trans (exec_stepByte_of_select hr hsel)

/-- Settles O16. -/
theorem operationsRunWhereSelected : Obligations.OperationsRunWhereSelected := by
  refine ⟨fun s b op hr => ?_, fun s b hr hsel => ?_,
    fun s hr h => ⟨whenCompleting_refused hr h _, whenCompleting_refused hr h _⟩,
    fun s b t htype => if_neg (by rw [htype]; nofun), fun s bytes hok hframe => ?_⟩
  · by_cases hsel : select s b = some op
    · rw [if_pos hsel, exec_stepByte_of_select hr hsel]
    · rw [if_neg hsel, exec_byteInstr, whenSelected, whenReady_of_ready hr, if_neg hsel]
  · have hrun : exec (.stepByte b) s = consumeByte b s := rfl
    rw [hrun, consumeByte, whenReady_of_ready hr, hsel]
  · have hrun : exec (.txFrame bytes) s = execTxFrame bytes s := rfl
    rw [hrun, execTxFrame, if_neg (by simp [hok]), if_neg (by simp [hframe])]

/-- Settles O30: the selection in `AwaitingMarker` enters no payload, the one in `AccumulatingPayload` no header. -/
theorem forbiddenTransitions : Obligations.ForbiddenTransitions := by
  intro s t b h
  obtain ⟨_, op, hsel, hrun⟩ := consumeByte_next.1 h
  refine ⟨fun hst => ?_, fun hst => ?_⟩
  · obtain rfl := Option.some.inj ((select_awaitingMarker hst b).symm.trans hsel)
    cases htype : typeOf s.cfg b with
    | none =>
      rw [selectMarker_of_none htype] at hrun
      cases hrun
      rw [hst]
      nofun
    | some q =>
      rw [selectMarker_of_some htype] at hrun
      exact st_of_runOp_markOp hst hrun
  · rcases select_payload_cases hst hsel with rfl | rfl
    · exact st_of_payload_byte hst (.inl hrun)
    · exact st_of_payload_byte hst (.inr hrun)

/-- Settles O4. -/
theorem resetStateIsInitial : Obligations.ResetStateIsInitial :=
  ⟨rfl, rfl, rfl, rfl, rfl, fun _ => rfl, rfl, rfl⟩

/-- Settles O5: nothing is in flight, and nothing of `BUF` has been written. -/
theorem resetStateInvariant : Obligations.ResetStateInvariant :=
  ⟨by decide, wf_reset, nofun, ⟨rfl, rfl, rfl, rfl⟩, rfl⟩

/-- Settles O6: `busy`, which `RESET` clears, is clear already. -/
theorem resetEmptiesDecoder : Obligations.ResetEmptiesDecoder := by
  intro s hc hb
  have hrun : exec .reset s = .next s.emptied.clearBusy := whenIdle_of_idle hc hb _
  rw [hrun, State.clearBusy, ← hb]
  rfl

/-- Settles O8: `v` has 16 bits, because `BUF_CAP` does. -/
theorem configSetsBound : Obligations.ConfigSetsBound := by
  intro s v hstatic hb hrange
  have hv : Configured v s (s.setMaxAclLen (BitVec.ofNat 16 v)) := ⟨hstatic, hb, hrange, rfl⟩
  have hrun : exec (.config v) s = execConfig v s := rfl
  refine ⟨_, ?_, hv.configOk.2, rfl⟩
  rw [hrun, execConfig, if_neg (by simp [hstatic]), if_neg (by simp [hb]), if_pos hrange]

/-- Settles O9. -/
theorem configOutOfRangeChangesNothing : Obligations.ConfigOutOfRangeChangesNothing := by
  intro s v hstatic hb hrange
  have hrun : exec (.config v) s = execConfig v s := rfl
  rw [hrun, execConfig, if_neg (by simp [hstatic]), if_neg (by simp [hb]), if_neg (by omega)]

/-- Settles O11: the row consumes its marker, which selects the operation of O10. -/
theorem markerRowsOpenPackets : Obligations.MarkerRowsOpenPackets := by
  intro s hr hst
  have hopen {q : PacketType} (hq : q ≠ .synchronousData) :
      consumeByte (marker s.cfg q) s = .next (s.openPacket q) := by
    rw [consumeByte_of_select hr (select_awaitingMarker hst _),
      selectMarker_of_some (typeOf_marker hr.limits.1 q), runOp_markOp hq]
  exact ⟨hopen (q := .command) nofun, hopen (q := .aclData) nofun, hopen (q := .event) nofun⟩

/-- Settles O13: `MARKER_SYNC` selects MARK.SYNC, by name or through the row. -/
theorem syncMarkerDropped : Obligations.SyncMarkerDropped := by
  intro s hr hst
  have hsel : select s (marker s.cfg .synchronousData) = some .markSync := by
    rw [select_awaitingMarker hst, selectMarker_of_some (typeOf_marker hr.limits.1 .synchronousData)]
    rfl
  exact ⟨exec_byteInstr_of_select hr hsel, consumeByte_of_select hr hsel⟩

/-- Settles O19: a type without a header size, or none, selects HDR.REJ.SYNC. -/
theorem unsupportedHeaderRejected : Obligations.UnsupportedHeaderRejected := by
  intro s b hr hst hmk
  have hsel : select s b = some .hdrRejSync := by
    rw [select, hst]
    rcases hmk with hmk | hmk <;> rw [hmk] <;> rfl
  exact exec_byteInstr_of_select hr hsel

/-- Settles O20: the cause is not read. -/
theorem resyncDiscardsPacket : Obligations.ResyncDiscardsPacket := by
  intro s cause hr
  exact whenReady_of_ready hr _

end Sys2Proof
end
